-- ==== Sys2Proof/Word.lean ====
section
/-! DEFINITION. The word types of the hardware (00_scope.md R7, R9). -/

namespace Sys2Proof

/-- A 32-bit address or integer value (XLEN = 32, R7). -/
abbrev Word := BitVec 32

/-- One byte, the smallest addressable unit (R110). -/
abbrev Byte := BitVec 8

/-- A 16-bit instruction parcel (R122, R170). -/
abbrev Parcel := BitVec 16

end Sys2Proof
end

