-- ==== Sys2Proof/Syntax.lean ====
section
/-! DEFINITION. The instructions: one constructor per row of spec/opcode_table.json. -/

namespace Sys2Proof

/-- The 16 general registers (10_state.md R30). Register numbers 16..31 name no register (R34). -/
inductive Reg where
  | c0 | c1 | c2 | c3 | c4 | c5 | c6 | c7 | c8 | c9 | c10 | c11 | c12 | c13 | c14 | c15
deriving DecidableEq, Repr

/-- The registers a 3-bit field of a compressed instruction names (30_encoding.md R186). -/
inductive CReg where
  | c8 | c9 | c10 | c11 | c12 | c13 | c14 | c15
deriving DecidableEq, Repr

/-- The register a 3-bit field names, as a general register. -/
def CReg.reg : CReg → Reg
  | .c8 => .c8
  | .c9 => .c9
  | .c10 => .c10
  | .c11 => .c11
  | .c12 => .c12
  | .c13 => .c13
  | .c14 => .c14
  | .c15 => .c15

/-- The four special capability registers (10_state.md R80). -/
inductive Scr where
  | mtcc | mtdc | mscratchc | mepcc
deriving DecidableEq, Repr

/-- An instruction. Immediates are the encoded bits: `imm : BitVec 12` is bits 31:20 of an I-format
word; a branch offset is `immB[12:1]`, a jump offset `immJ[20:1]`; a scaled immediate of a
compressed form leaves out its low zero bits. -/
inductive Instr where
  -- 40_integer.md
  | lui (rd : Reg) (imm : BitVec 20)
  | addi (rd rs1 : Reg) (imm : BitVec 12)
  | slti (rd rs1 : Reg) (imm : BitVec 12)
  | sltiu (rd rs1 : Reg) (imm : BitVec 12)
  | xori (rd rs1 : Reg) (imm : BitVec 12)
  | ori (rd rs1 : Reg) (imm : BitVec 12)
  | andi (rd rs1 : Reg) (imm : BitVec 12)
  | slli (rd rs1 : Reg) (shamt : BitVec 5)
  | srli (rd rs1 : Reg) (shamt : BitVec 5)
  | srai (rd rs1 : Reg) (shamt : BitVec 5)
  | add (rd rs1 rs2 : Reg)
  | sub (rd rs1 rs2 : Reg)
  | sll (rd rs1 rs2 : Reg)
  | slt (rd rs1 rs2 : Reg)
  | sltu (rd rs1 rs2 : Reg)
  | xor (rd rs1 rs2 : Reg)
  | srl (rd rs1 rs2 : Reg)
  | sra (rd rs1 rs2 : Reg)
  | or (rd rs1 rs2 : Reg)
  | and (rd rs1 rs2 : Reg)
  | mul (rd rs1 rs2 : Reg)
  | mulh (rd rs1 rs2 : Reg)
  | mulhsu (rd rs1 rs2 : Reg)
  | mulhu (rd rs1 rs2 : Reg)
  | div (rd rs1 rs2 : Reg)
  | divu (rd rs1 rs2 : Reg)
  | rem (rd rs1 rs2 : Reg)
  | remu (rd rs1 rs2 : Reg)
  -- 41_control_transfer.md
  | cjal (cd : Reg) (off : BitVec 20)
  | cjalr (cd cs1 : Reg) (imm : BitVec 12)
  | beq (rs1 rs2 : Reg) (off : BitVec 12)
  | bne (rs1 rs2 : Reg) (off : BitVec 12)
  | blt (rs1 rs2 : Reg) (off : BitVec 12)
  | bge (rs1 rs2 : Reg) (off : BitVec 12)
  | bltu (rs1 rs2 : Reg) (off : BitVec 12)
  | bgeu (rs1 rs2 : Reg) (off : BitVec 12)
  -- 42_loads_stores.md
  | clb (rd cs1 : Reg) (imm : BitVec 12)
  | clh (rd cs1 : Reg) (imm : BitVec 12)
  | clw (rd cs1 : Reg) (imm : BitVec 12)
  | clbu (rd cs1 : Reg) (imm : BitVec 12)
  | clhu (rd cs1 : Reg) (imm : BitVec 12)
  | clc (cd cs1 : Reg) (imm : BitVec 12)
  | csb (rs2 cs1 : Reg) (imm : BitVec 12)
  | csh (rs2 cs1 : Reg) (imm : BitVec 12)
  | csw (rs2 cs1 : Reg) (imm : BitVec 12)
  | csc (cs2 cs1 : Reg) (imm : BitVec 12)
  -- 43_system.md; the fields FENCE and FENCE.I ignore are kept (R183)
  | fence (fm pred succ : BitVec 4) (rs1 rd : BitVec 5)
  | fencei (imm : BitVec 12) (rs1 rd : BitVec 5)
  | ecall
  | ebreak
  | wfi
  | mret
  | csrrw (rd : Reg) (csr : BitVec 12) (rs1 : Reg)
  | csrrs (rd : Reg) (csr : BitVec 12) (rs1 : Reg)
  | csrrc (rd : Reg) (csr : BitVec 12) (rs1 : Reg)
  | csrrwi (rd : Reg) (csr : BitVec 12) (uimm : BitVec 5)
  | csrrsi (rd : Reg) (csr : BitVec 12) (uimm : BitVec 5)
  | csrrci (rd : Reg) (csr : BitVec 12) (uimm : BitVec 5)
  | cspecialrw (cd : Reg) (scr : Scr) (cs1 : Reg)
  -- 44_capability_modify.md
  | auipcc (cd : Reg) (imm : BitVec 20)
  | auicgp (cd : Reg) (imm : BitVec 20)
  | cincaddr (cd cs1 rs2 : Reg)
  | cincaddrimm (cd cs1 : Reg) (imm : BitVec 12)
  | csetaddr (cd cs1 rs2 : Reg)
  | csetbounds (cd cs1 rs2 : Reg)
  | csetboundsexact (cd cs1 rs2 : Reg)
  | csetboundsimm (cd cs1 : Reg) (uimm : BitVec 12)
  | candperm (cd cs1 rs2 : Reg)
  | cseal (cd cs1 cs2 : Reg)
  | cunseal (cd cs1 cs2 : Reg)
  | cmove (cd cs1 : Reg)
  | ccleartag (cd cs1 : Reg)
  | csethigh (cd cs1 rs2 : Reg)
  -- 45_capability_inspect.md
  | cgetperm (rd cs1 : Reg)
  | cgettype (rd cs1 : Reg)
  | cgetbase (rd cs1 : Reg)
  | cgetlen (rd cs1 : Reg)
  | cgettop (rd cs1 : Reg)
  | cgettag (rd cs1 : Reg)
  | cgetaddr (rd cs1 : Reg)
  | cgethigh (rd cs1 : Reg)
  | csub (rd cs1 cs2 : Reg)
  | ctestsubset (rd cs1 cs2 : Reg)
  | csetequalexact (rd cs1 cs2 : Reg)
  | crrl (rd rs1 : Reg)
  | cram (rd rs1 : Reg)
  -- 46_compressed.md
  | rvcAddi4spn (cd : CReg) (nzuimm : BitVec 8)
  | rvcLw (rd cs1 : CReg) (uimm : BitVec 5)
  | rvcLc (cd cs1 : CReg) (uimm : BitVec 5)
  | rvcSw (rs2 cs1 : CReg) (uimm : BitVec 5)
  | rvcSc (cs2 cs1 : CReg) (uimm : BitVec 5)
  | rvcNop (imm : BitVec 6)
  | rvcAddi (rd : Reg) (imm : BitVec 6)
  | rvcJal (off : BitVec 11)
  | rvcLi (rd : Reg) (imm : BitVec 6)
  | rvcAddi16sp (nzimm : BitVec 6)
  | rvcLui (rd : Reg) (imm : BitVec 6)
  | rvcSrli (rd : CReg) (shamt : BitVec 5)
  | rvcSrai (rd : CReg) (shamt : BitVec 5)
  | rvcAndi (rd : CReg) (imm : BitVec 6)
  | rvcSub (rd rs2 : CReg)
  | rvcXor (rd rs2 : CReg)
  | rvcOr (rd rs2 : CReg)
  | rvcAnd (rd rs2 : CReg)
  | rvcJ (off : BitVec 11)
  | rvcBeqz (rs1 : CReg) (off : BitVec 8)
  | rvcBnez (rs1 : CReg) (off : BitVec 8)
  | rvcSlli (rd : Reg) (shamt : BitVec 5)
  | rvcLwsp (rd : Reg) (uimm : BitVec 6)
  | rvcLcsp (cd : Reg) (uimm : BitVec 6)
  | rvcJr (cs1 : Reg)
  | rvcMv (cd cs2 : Reg)
  | rvcEbreak
  | rvcJalr (cs1 : Reg)
  | rvcAdd (rd rs2 : Reg)
  | rvcSwsp (rs2 : Reg) (uimm : BitVec 6)
  | rvcScsp (cs2 : Reg) (uimm : BitVec 6)
deriving DecidableEq, Repr

end Sys2Proof
end

