-- ==== Sys2Proof/WellFormed.lean ====
section
/-! DEFINITION. Which instructions have an encoding: the operand values that 46_compressed.md
reserves, or gives to another instruction, are refused here. The types of Syntax.lean exclude every
other ill-formed operand. -/

namespace Sys2Proof

/-- The instruction has an encoding. -/
def Instr.wellFormed : Instr → Bool
  -- R411: a zero immediate is illegal
  | .rvcAddi4spn _ nzuimm => nzuimm != 0
  -- R421: `rd = 0` is C.NOP
  | .rvcAddi rd _ => rd != .c0
  -- R424: a zero immediate is reserved
  | .rvcAddi16sp nzimm => nzimm != 0
  -- R425: `rd = 2` is C.ADDI16SP, a zero immediate is reserved
  | .rvcLui rd imm => rd != .c2 && imm != 0
  -- R440, R441: `rd = 0` is reserved
  | .rvcLwsp rd _ => rd != .c0
  | .rvcLcsp cd _ => cd != .c0
  -- R442: `rs1 = 0` is reserved
  | .rvcJr cs1 => cs1 != .c0
  -- R444: `rs2 = 0` is C.JR
  | .rvcMv _ cs2 => cs2 != .c0
  -- R446: `rs1 = 0` is C.EBREAK
  | .rvcJalr cs1 => cs1 != .c0
  -- R447: `rs2 = 0` is C.JALR or C.EBREAK
  | .rvcAdd _ rs2 => rs2 != .c0
  -- every other operand value is encodable
  | .lui .. | .addi .. | .slti .. | .sltiu .. | .xori .. | .ori .. | .andi .. | .slli ..
  | .srli .. | .srai .. | .add .. | .sub .. | .sll .. | .slt .. | .sltu .. | .xor .. | .srl ..
  | .sra .. | .or .. | .and .. | .mul .. | .mulh .. | .mulhsu .. | .mulhu .. | .div ..
  | .divu .. | .rem .. | .remu .. | .cjal .. | .cjalr .. | .beq .. | .bne .. | .blt ..
  | .bge .. | .bltu .. | .bgeu .. | .clb .. | .clh .. | .clw .. | .clbu .. | .clhu .. | .clc ..
  | .csb .. | .csh .. | .csw .. | .csc .. | .fence .. | .fencei .. | .ecall .. | .ebreak ..
  | .wfi .. | .mret .. | .csrrw .. | .csrrs .. | .csrrc .. | .csrrwi .. | .csrrsi ..
  | .csrrci .. | .cspecialrw .. | .auipcc .. | .auicgp .. | .cincaddr .. | .cincaddrimm ..
  | .csetaddr .. | .csetbounds .. | .csetboundsexact .. | .csetboundsimm .. | .candperm ..
  | .cseal .. | .cunseal .. | .cmove .. | .ccleartag .. | .csethigh .. | .cgetperm ..
  | .cgettype .. | .cgetbase .. | .cgetlen .. | .cgettop .. | .cgettag .. | .cgetaddr ..
  | .cgethigh .. | .csub .. | .ctestsubset .. | .csetequalexact .. | .crrl .. | .cram ..
  | .rvcLw .. | .rvcLc .. | .rvcSw .. | .rvcSc .. | .rvcNop .. | .rvcJal .. | .rvcLi ..
  | .rvcSrli .. | .rvcSrai .. | .rvcAndi .. | .rvcSub .. | .rvcXor .. | .rvcOr .. | .rvcAnd ..
  | .rvcJ .. | .rvcBeqz .. | .rvcBnez .. | .rvcSlli .. | .rvcEbreak .. | .rvcSwsp ..
  | .rvcScsp .. => true

end Sys2Proof
end

