-- ==== Sys2Proof/Decode.lean ====
section
/-! DEFINITION. The decoder, total on any bytes, and the encoder (30_encoding.md, 46_compressed.md,
opcode_table.json). A word that is no instruction is rejected by name; the step then takes the
IllegalInstruction exception (R182). -/

namespace Sys2Proof

/-- Why bytes are no instruction. -/
inductive DecodeError where
  /-- fewer bytes than the length the first parcel asks for -/
  | truncated
  /-- `h[4:0] = 0b11111`, the prefix of longer instructions (R170) -/
  | longPrefix
  /-- an opcode, function code or fixed bit that no row lists (R182, R454) -/
  | unlisted
  /-- a register field of 16..31 (R172) -/
  | registerAbove15
  /-- an SCR number outside 28..31 (R179) -/
  | unknownScr
  /-- an operand value a 16-bit form reserves (R454) -/
  | reservedOperand
deriving DecidableEq, Repr

/-! ## Register fields -/

/-- The 5-bit field that names a register (R30). -/
def Reg.bits : Reg → BitVec 5
  | .c0 => 0 | .c1 => 1 | .c2 => 2 | .c3 => 3 | .c4 => 4 | .c5 => 5 | .c6 => 6 | .c7 => 7
  | .c8 => 8 | .c9 => 9 | .c10 => 10 | .c11 => 11 | .c12 => 12 | .c13 => 13 | .c14 => 14 | .c15 => 15

/-- The register a 5-bit field names; 16..31 name none (R34, R172). -/
def reg (b : BitVec 5) : Except DecodeError Reg :=
  match b.toNat with
  | 0 => .ok .c0 | 1 => .ok .c1 | 2 => .ok .c2 | 3 => .ok .c3
  | 4 => .ok .c4 | 5 => .ok .c5 | 6 => .ok .c6 | 7 => .ok .c7
  | 8 => .ok .c8 | 9 => .ok .c9 | 10 => .ok .c10 | 11 => .ok .c11
  | 12 => .ok .c12 | 13 => .ok .c13 | 14 => .ok .c14 | 15 => .ok .c15
  | _ => .error .registerAbove15

/-- The 3-bit field that names a register of the compressed set (R186). -/
def CReg.bits : CReg → BitVec 3
  | .c8 => 0 | .c9 => 1 | .c10 => 2 | .c11 => 3 | .c12 => 4 | .c13 => 5 | .c14 => 6 | .c15 => 7

/-- The register a 3-bit field names: `8 + field` (R186). -/
def creg (b : BitVec 3) : CReg :=
  match b.toNat with
  | 0 => .c8 | 1 => .c9 | 2 => .c10 | 3 => .c11 | 4 => .c12 | 5 => .c13 | 6 => .c14 | _ => .c15

/-- The number of a special capability register (R80, R179). -/
def Scr.bits : Scr → BitVec 5
  | .mtcc => 28 | .mtdc => 29 | .mscratchc => 30 | .mepcc => 31

/-- The special capability register a 5-bit field names (R179). -/
def scr (b : BitVec 5) : Except DecodeError Scr :=
  match b.toNat with
  | 28 => .ok .mtcc | 29 => .ok .mtdc | 30 => .ok .mscratchc | 31 => .ok .mepcc
  | _ => .error .unknownScr

/-! ## Fields of a 32-bit word (R171, R173) -/

def fOpcode (w : Word) : BitVec 7 := w.extractLsb' 0 7
def fRd (w : Word) : BitVec 5 := w.extractLsb' 7 5
def fFunct3 (w : Word) : BitVec 3 := w.extractLsb' 12 3
def fRs1 (w : Word) : BitVec 5 := w.extractLsb' 15 5
def fRs2 (w : Word) : BitVec 5 := w.extractLsb' 20 5
def fFunct7 (w : Word) : BitVec 7 := w.extractLsb' 25 7

/-- `i[31:20]`: the immediate of the I format, the CSR address. -/
def fImmI (w : Word) : BitVec 12 := w.extractLsb' 20 12

/-- `i[31:12]`: the immediate of the U format. -/
def fImmU (w : Word) : BitVec 20 := w.extractLsb' 12 20

/-- The immediate of the S format. -/
def fImmS (w : Word) : BitVec 12 := w.extractLsb' 25 7 ++ w.extractLsb' 7 5

/-- `immB[12:1]`, the branch offset without its zero bit. -/
def fImmB (w : Word) : BitVec 12 :=
  w.extractLsb' 31 1 ++ w.extractLsb' 7 1 ++ w.extractLsb' 25 6 ++ w.extractLsb' 8 4

/-- `immJ[20:1]`, the jump offset without its zero bit. -/
def fImmJ (w : Word) : BitVec 20 :=
  w.extractLsb' 31 1 ++ w.extractLsb' 12 8 ++ w.extractLsb' 20 1 ++ w.extractLsb' 21 10

/-! ## Decoding a 32-bit word, by format -/

/-- R format: `rd, rs1, rs2`. -/
def decodeR (mk : Reg → Reg → Reg → Instr) (w : Word) : Except DecodeError Instr := do
  let rd ← reg (fRd w)
  let rs1 ← reg (fRs1 w)
  let rs2 ← reg (fRs2 w)
  pure (mk rd rs1 rs2)

/-- R format with a function code in the `rs2` field: `rd, rs1` (R178). -/
def decodeUnary (mk : Reg → Reg → Instr) (w : Word) : Except DecodeError Instr := do
  let rd ← reg (fRd w)
  let rs1 ← reg (fRs1 w)
  pure (mk rd rs1)

/-- I format: `rd, rs1, imm[11:0]`. -/
def decodeI (mk : Reg → Reg → BitVec 12 → Instr) (w : Word) : Except DecodeError Instr := do
  let rd ← reg (fRd w)
  let rs1 ← reg (fRs1 w)
  pure (mk rd rs1 (fImmI w))

/-- I format of a shift by an immediate: `rd, rs1, shamt` (R173). -/
def decodeShift (mk : Reg → Reg → BitVec 5 → Instr) (w : Word) : Except DecodeError Instr := do
  let rd ← reg (fRd w)
  let rs1 ← reg (fRs1 w)
  pure (mk rd rs1 (fRs2 w))

/-- S format: `rs2, rs1, imm[11:0]`. -/
def decodeS (mk : Reg → Reg → BitVec 12 → Instr) (w : Word) : Except DecodeError Instr := do
  let rs2 ← reg (fRs2 w)
  let rs1 ← reg (fRs1 w)
  pure (mk rs2 rs1 (fImmS w))

/-- B format: `rs1, rs2, imm[12:1]`. -/
def decodeB (mk : Reg → Reg → BitVec 12 → Instr) (w : Word) : Except DecodeError Instr := do
  let rs1 ← reg (fRs1 w)
  let rs2 ← reg (fRs2 w)
  pure (mk rs1 rs2 (fImmB w))

/-- U format: `rd, imm[31:12]`. -/
def decodeU (mk : Reg → BitVec 20 → Instr) (w : Word) : Except DecodeError Instr := do
  let rd ← reg (fRd w)
  pure (mk rd (fImmU w))

/-- J format: `rd, imm[20:1]`. -/
def decodeJ (mk : Reg → BitVec 20 → Instr) (w : Word) : Except DecodeError Instr := do
  let rd ← reg (fRd w)
  pure (mk rd (fImmJ w))

/-- A CSR instruction with a register source: `rd, csr, rs1`. -/
def decodeCsr (mk : Reg → BitVec 12 → Reg → Instr) (w : Word) : Except DecodeError Instr := do
  let rd ← reg (fRd w)
  let rs1 ← reg (fRs1 w)
  pure (mk rd (fImmI w) rs1)

/-- A CSR instruction with an immediate source: `rd, csr, uimm5`. -/
def decodeCsrImm (mk : Reg → BitVec 12 → BitVec 5 → Instr) (w : Word) :
    Except DecodeError Instr := do
  let rd ← reg (fRd w)
  pure (mk rd (fImmI w) (fRs1 w))

/-- CSpecialRW: `cd, scr, cs1` (R348). -/
def decodeScr (w : Word) : Except DecodeError Instr := do
  let cd ← reg (fRd w)
  let cs1 ← reg (fRs1 w)
  let n ← scr (fRs2 w)
  pure (.cspecialrw cd n cs1)

/-! ## Decoding a 32-bit word, by opcode (R174 to R178) -/

/-- Opcode 0x03. -/
def decodeLoad (w : Word) : Except DecodeError Instr :=
  if fFunct3 w = 0#3 then decodeI .clb w
  else if fFunct3 w = 1#3 then decodeI .clh w
  else if fFunct3 w = 2#3 then decodeI .clw w
  else if fFunct3 w = 3#3 then decodeI .clc w
  else if fFunct3 w = 4#3 then decodeI .clbu w
  else if fFunct3 w = 5#3 then decodeI .clhu w
  else .error .unlisted

/-- Opcode 0x0f: the fields the fences ignore are kept (R183, R330, R331). -/
def decodeMiscMem (w : Word) : Except DecodeError Instr :=
  if fFunct3 w = 0#3 then pure (.fence (w.extractLsb' 28 4) (w.extractLsb' 24 4) (w.extractLsb' 20 4) (fRs1 w) (fRd w))
  else if fFunct3 w = 1#3 then pure (.fencei (fImmI w) (fRs1 w) (fRd w))
  else .error .unlisted

/-- Opcode 0x13. -/
def decodeOpImm (w : Word) : Except DecodeError Instr :=
  if fFunct3 w = 0#3 then decodeI .addi w
  else if fFunct3 w = 2#3 then decodeI .slti w
  else if fFunct3 w = 3#3 then decodeI .sltiu w
  else if fFunct3 w = 4#3 then decodeI .xori w
  else if fFunct3 w = 6#3 then decodeI .ori w
  else if fFunct3 w = 7#3 then decodeI .andi w
  else if fFunct3 w = 1#3 ∧ fFunct7 w = 0x00#7 then decodeShift .slli w
  else if fFunct3 w = 5#3 ∧ fFunct7 w = 0x00#7 then decodeShift .srli w
  else if fFunct3 w = 5#3 ∧ fFunct7 w = 0x20#7 then decodeShift .srai w
  else .error .unlisted

/-- Opcode 0x23. -/
def decodeStore (w : Word) : Except DecodeError Instr :=
  if fFunct3 w = 0#3 then decodeS .csb w
  else if fFunct3 w = 1#3 then decodeS .csh w
  else if fFunct3 w = 2#3 then decodeS .csw w
  else if fFunct3 w = 3#3 then decodeS .csc w
  else .error .unlisted

/-- Opcode 0x33, funct7 0x00. -/
def decodeOp00 (w : Word) : Except DecodeError Instr :=
  if fFunct3 w = 0#3 then decodeR .add w
  else if fFunct3 w = 1#3 then decodeR .sll w
  else if fFunct3 w = 2#3 then decodeR .slt w
  else if fFunct3 w = 3#3 then decodeR .sltu w
  else if fFunct3 w = 4#3 then decodeR .xor w
  else if fFunct3 w = 5#3 then decodeR .srl w
  else if fFunct3 w = 6#3 then decodeR .or w
  else if fFunct3 w = 7#3 then decodeR .and w
  else .error .unlisted

/-- Opcode 0x33, funct7 0x01: the M rows, whose meanings look at `HAS_M` (R245). -/
def decodeOp01 (w : Word) : Except DecodeError Instr :=
  if fFunct3 w = 0#3 then decodeR .mul w
  else if fFunct3 w = 1#3 then decodeR .mulh w
  else if fFunct3 w = 2#3 then decodeR .mulhsu w
  else if fFunct3 w = 3#3 then decodeR .mulhu w
  else if fFunct3 w = 4#3 then decodeR .div w
  else if fFunct3 w = 5#3 then decodeR .divu w
  else if fFunct3 w = 6#3 then decodeR .rem w
  else if fFunct3 w = 7#3 then decodeR .remu w
  else .error .unlisted

/-- Opcode 0x33, funct7 0x20. -/
def decodeOp20 (w : Word) : Except DecodeError Instr :=
  if fFunct3 w = 0#3 then decodeR .sub w
  else if fFunct3 w = 5#3 then decodeR .sra w
  else .error .unlisted

/-- Opcode 0x33. -/
def decodeOp (w : Word) : Except DecodeError Instr :=
  if fFunct7 w = 0x00#7 then decodeOp00 w
  else if fFunct7 w = 0x01#7 then decodeOp01 w
  else if fFunct7 w = 0x20#7 then decodeOp20 w
  else .error .unlisted

/-- Opcode 0x5b, funct3 0, funct7 0x7f (R178). -/
def decodeCapUnary (w : Word) : Except DecodeError Instr :=
  if fRs2 w = 0x00#5 then decodeUnary .cgetperm w
  else if fRs2 w = 0x01#5 then decodeUnary .cgettype w
  else if fRs2 w = 0x02#5 then decodeUnary .cgetbase w
  else if fRs2 w = 0x03#5 then decodeUnary .cgetlen w
  else if fRs2 w = 0x04#5 then decodeUnary .cgettag w
  else if fRs2 w = 0x08#5 then decodeUnary .crrl w
  else if fRs2 w = 0x09#5 then decodeUnary .cram w
  else if fRs2 w = 0x0a#5 then decodeUnary .cmove w
  else if fRs2 w = 0x0b#5 then decodeUnary .ccleartag w
  else if fRs2 w = 0x0f#5 then decodeUnary .cgetaddr w
  else if fRs2 w = 0x17#5 then decodeUnary .cgethigh w
  else if fRs2 w = 0x18#5 then decodeUnary .cgettop w
  else .error .unlisted

/-- Opcode 0x5b, funct3 0 (R177). -/
def decodeCapR (w : Word) : Except DecodeError Instr :=
  if fFunct7 w = 0x01#7 then decodeScr w
  else if fFunct7 w = 0x08#7 then decodeR .csetbounds w
  else if fFunct7 w = 0x09#7 then decodeR .csetboundsexact w
  else if fFunct7 w = 0x0b#7 then decodeR .cseal w
  else if fFunct7 w = 0x0c#7 then decodeR .cunseal w
  else if fFunct7 w = 0x0d#7 then decodeR .candperm w
  else if fFunct7 w = 0x10#7 then decodeR .csetaddr w
  else if fFunct7 w = 0x11#7 then decodeR .cincaddr w
  else if fFunct7 w = 0x14#7 then decodeR .csub w
  else if fFunct7 w = 0x16#7 then decodeR .csethigh w
  else if fFunct7 w = 0x20#7 then decodeR .ctestsubset w
  else if fFunct7 w = 0x21#7 then decodeR .csetequalexact w
  else if fFunct7 w = 0x7f#7 then decodeCapUnary w
  else .error .unlisted

/-- Opcode 0x5b (R176). -/
def decodeCap (w : Word) : Except DecodeError Instr :=
  if fFunct3 w = 0#3 then decodeCapR w
  else if fFunct3 w = 1#3 then decodeI .cincaddrimm w
  else if fFunct3 w = 2#3 then decodeI .csetboundsimm w
  else .error .unlisted

/-- Opcode 0x63. -/
def decodeBranch (w : Word) : Except DecodeError Instr :=
  if fFunct3 w = 0#3 then decodeB .beq w
  else if fFunct3 w = 1#3 then decodeB .bne w
  else if fFunct3 w = 4#3 then decodeB .blt w
  else if fFunct3 w = 5#3 then decodeB .bge w
  else if fFunct3 w = 6#3 then decodeB .bltu w
  else if fFunct3 w = 7#3 then decodeB .bgeu w
  else .error .unlisted

/-- Opcode 0x73: the four fixed words and the CSR instructions (R175, R347). -/
def decodeSystem (w : Word) : Except DecodeError Instr :=
  if w = 0x00000073#32 then pure .ecall
  else if w = 0x00100073#32 then pure .ebreak
  else if w = 0x10500073#32 then pure .wfi
  else if w = 0x30200073#32 then pure .mret
  else if fFunct3 w = 1#3 then decodeCsr .csrrw w
  else if fFunct3 w = 2#3 then decodeCsr .csrrs w
  else if fFunct3 w = 3#3 then decodeCsr .csrrc w
  else if fFunct3 w = 5#3 then decodeCsrImm .csrrwi w
  else if fFunct3 w = 6#3 then decodeCsrImm .csrrsi w
  else if fFunct3 w = 7#3 then decodeCsrImm .csrrci w
  else .error .unlisted

/-- The instruction a 32-bit word is (R174). -/
def decodeWord (w : Word) : Except DecodeError Instr :=
  if fOpcode w = 0x03#7 then decodeLoad w
  else if fOpcode w = 0x0f#7 then decodeMiscMem w
  else if fOpcode w = 0x13#7 then decodeOpImm w
  else if fOpcode w = 0x17#7 then decodeU .auipcc w
  else if fOpcode w = 0x23#7 then decodeStore w
  else if fOpcode w = 0x33#7 then decodeOp w
  else if fOpcode w = 0x37#7 then decodeU .lui w
  else if fOpcode w = 0x5b#7 then decodeCap w
  else if fOpcode w = 0x63#7 then decodeBranch w
  else if fOpcode w = 0x67#7 ∧ fFunct3 w = 0#3 then decodeI .cjalr w
  else if fOpcode w = 0x6f#7 then decodeJ .cjal w
  else if fOpcode w = 0x73#7 then decodeSystem w
  else if fOpcode w = 0x7b#7 then decodeU .auicgp w
  else .error .unlisted

/-! ## Fields of a 16-bit parcel (R186, 46_compressed.md) -/

def hQuadrant (h : Parcel) : BitVec 2 := h.extractLsb' 0 2
def hFunct3 (h : Parcel) : BitVec 3 := h.extractLsb' 13 3

/-- `h[12]`. -/
def hBit12 (h : Parcel) : BitVec 1 := h.extractLsb' 12 1

/-- The 5-bit field `rd` or `rs1`, `h[11:7]`. -/
def hRd (h : Parcel) : BitVec 5 := h.extractLsb' 7 5

/-- The 5-bit field `rs2`, `h[6:2]`; also the low bits of an immediate or a shift amount. -/
def hRs2 (h : Parcel) : BitVec 5 := h.extractLsb' 2 5

/-- The 3-bit field `rs1'`, `h[9:7]`. -/
def hRs1C (h : Parcel) : CReg := creg (h.extractLsb' 7 3)

/-- The 3-bit field `rd'` or `rs2'`, `h[4:2]`. -/
def hRdC (h : Parcel) : CReg := creg (h.extractLsb' 2 3)

/-- `imm6` of the CI format (46_compressed.md section 3). -/
def hImm6 (h : Parcel) : BitVec 6 := h.extractLsb' 12 1 ++ h.extractLsb' 2 5

/-- `nzuimm[9:2]` of C.ADDI4SPN (R411). -/
def hImm4spn (h : Parcel) : BitVec 8 :=
  h.extractLsb' 7 4 ++ h.extractLsb' 11 2 ++ h.extractLsb' 5 1 ++ h.extractLsb' 6 1

/-- `uimm[6:2]` of C.LW and C.SW (R413). -/
def hImmLw (h : Parcel) : BitVec 5 :=
  h.extractLsb' 5 1 ++ h.extractLsb' 10 3 ++ h.extractLsb' 6 1

/-- `uimm[7:3]` of C.LC and C.SC (R414). -/
def hImmLc (h : Parcel) : BitVec 5 := h.extractLsb' 5 2 ++ h.extractLsb' 10 3

/-- `off[11:1]` of C.J and C.JAL (R422). -/
def hOffJ (h : Parcel) : BitVec 11 :=
  h.extractLsb' 12 1 ++ h.extractLsb' 8 1 ++ h.extractLsb' 9 2 ++ h.extractLsb' 6 1 ++
    h.extractLsb' 7 1 ++ h.extractLsb' 2 1 ++ h.extractLsb' 11 1 ++ h.extractLsb' 3 3

/-- `nzimm[9:4]` of C.ADDI16SP (R424). -/
def hImm16sp (h : Parcel) : BitVec 6 :=
  h.extractLsb' 12 1 ++ h.extractLsb' 3 2 ++ h.extractLsb' 5 1 ++ h.extractLsb' 2 1 ++
    h.extractLsb' 6 1

/-- `off[8:1]` of C.BEQZ and C.BNEZ (R435). -/
def hOffB (h : Parcel) : BitVec 8 :=
  h.extractLsb' 12 1 ++ h.extractLsb' 5 2 ++ h.extractLsb' 2 1 ++ h.extractLsb' 10 2 ++
    h.extractLsb' 3 2

/-- `uimm[7:2]` of C.LWSP (R440). -/
def hImmLwsp (h : Parcel) : BitVec 6 :=
  h.extractLsb' 2 2 ++ h.extractLsb' 12 1 ++ h.extractLsb' 4 3

/-- `uimm[8:3]` of C.LCSP (R441). -/
def hImmLcsp (h : Parcel) : BitVec 6 :=
  h.extractLsb' 2 3 ++ h.extractLsb' 12 1 ++ h.extractLsb' 5 2

/-- `uimm[7:2]` of C.SWSP (R449). -/
def hImmSwsp (h : Parcel) : BitVec 6 := h.extractLsb' 7 2 ++ h.extractLsb' 9 4

/-- `uimm[8:3]` of C.SCSP (R450). -/
def hImmScsp (h : Parcel) : BitVec 6 := h.extractLsb' 7 3 ++ h.extractLsb' 10 3

/-! ## Decoding a 16-bit parcel (R454) -/

/-- Accept an instruction when it is well formed; the operand values WellFormed.lean refuses are
reserved. -/
def unlessReserved (i : Instr) : Except DecodeError Instr :=
  if i.wellFormed then .ok i else .error .reservedOperand

/-- Quadrant 0 (R411 to R418). -/
def decodeQ0 (h : Parcel) : Except DecodeError Instr :=
  if hFunct3 h = 0#3 then unlessReserved (.rvcAddi4spn (hRdC h) (hImm4spn h))
  else if hFunct3 h = 2#3 then pure (.rvcLw (hRdC h) (hRs1C h) (hImmLw h))
  else if hFunct3 h = 3#3 then pure (.rvcLc (hRdC h) (hRs1C h) (hImmLc h))
  else if hFunct3 h = 6#3 then pure (.rvcSw (hRdC h) (hRs1C h) (hImmLw h))
  else if hFunct3 h = 7#3 then pure (.rvcSc (hRdC h) (hRs1C h) (hImmLc h))
  else .error .unlisted

/-- Quadrant 1, funct3 100 (R426 to R433). -/
def decodeQ1Alu (h : Parcel) : Except DecodeError Instr :=
  let kind := h.extractLsb' 10 2
  let sub := h.extractLsb' 5 2
  if kind = 2#2 then pure (.rvcAndi (hRs1C h) (hImm6 h))
  else if hBit12 h = 1#1 then .error .unlisted
  else if kind = 0#2 then pure (.rvcSrli (hRs1C h) (hRs2 h))
  else if kind = 1#2 then pure (.rvcSrai (hRs1C h) (hRs2 h))
  else if sub = 0#2 then pure (.rvcSub (hRs1C h) (hRdC h))
  else if sub = 1#2 then pure (.rvcXor (hRs1C h) (hRdC h))
  else if sub = 2#2 then pure (.rvcOr (hRs1C h) (hRdC h))
  else pure (.rvcAnd (hRs1C h) (hRdC h))

/-- Quadrant 1 (R420 to R436). -/
def decodeQ1 (h : Parcel) : Except DecodeError Instr :=
  if hFunct3 h = 0#3 then
    if hRd h = 0#5 then pure (.rvcNop (hImm6 h))
    else do
      let rd ← reg (hRd h)
      pure (.rvcAddi rd (hImm6 h))
  else if hFunct3 h = 1#3 then pure (.rvcJal (hOffJ h))
  else if hFunct3 h = 2#3 then do
    let rd ← reg (hRd h)
    pure (.rvcLi rd (hImm6 h))
  else if hFunct3 h = 3#3 then
    if hRd h = 2#5 then unlessReserved (.rvcAddi16sp (hImm16sp h))
    else do
      let rd ← reg (hRd h)
      unlessReserved (.rvcLui rd (hImm6 h))
  else if hFunct3 h = 4#3 then decodeQ1Alu h
  else if hFunct3 h = 5#3 then pure (.rvcJ (hOffJ h))
  else if hFunct3 h = 6#3 then pure (.rvcBeqz (hRs1C h) (hOffB h))
  else pure (.rvcBnez (hRs1C h) (hOffB h))

/-- Quadrant 2, funct3 100 (R442 to R447). -/
def decodeQ2Jump (h : Parcel) : Except DecodeError Instr :=
  if hRs2 h = 0#5 then
    if hBit12 h = 0#1 then do
      let cs1 ← reg (hRd h)
      unlessReserved (.rvcJr cs1)
    else if hRd h = 0#5 then pure .rvcEbreak
    else do
      let cs1 ← reg (hRd h)
      pure (.rvcJalr cs1)
  else do
    let rd ← reg (hRd h)
    let rs2 ← reg (hRs2 h)
    if hBit12 h = 0#1 then pure (.rvcMv rd rs2) else pure (.rvcAdd rd rs2)

/-- Quadrant 2 (R438 to R450). -/
def decodeQ2 (h : Parcel) : Except DecodeError Instr :=
  if hFunct3 h = 0#3 then
    if hBit12 h = 1#1 then .error .unlisted
    else do
      let rd ← reg (hRd h)
      pure (.rvcSlli rd (hRs2 h))
  else if hFunct3 h = 2#3 then do
    let rd ← reg (hRd h)
    unlessReserved (.rvcLwsp rd (hImmLwsp h))
  else if hFunct3 h = 3#3 then do
    let cd ← reg (hRd h)
    unlessReserved (.rvcLcsp cd (hImmLcsp h))
  else if hFunct3 h = 4#3 then decodeQ2Jump h
  else if hFunct3 h = 6#3 then do
    let rs2 ← reg (hRs2 h)
    pure (.rvcSwsp rs2 (hImmSwsp h))
  else if hFunct3 h = 7#3 then do
    let cs2 ← reg (hRs2 h)
    pure (.rvcScsp cs2 (hImmScsp h))
  else .error .unlisted

/-- The instruction a 16-bit parcel is (R410, R454). -/
def decodeParcel (h : Parcel) : Except DecodeError Instr :=
  if hQuadrant h = 0#2 then decodeQ0 h
  else if hQuadrant h = 1#2 then decodeQ1 h
  else if hQuadrant h = 2#2 then decodeQ2 h
  else .error .unlisted

/-! ## Decoding bytes -/

/-- The length in bytes of the instruction whose first parcel is `h` (R170, R280 step 6). -/
def parcelLength (h : Parcel) : Nat := if hQuadrant h = 3#2 then 4 else 2

/-- The instruction at the front of some bytes, which lie as memory holds them: parcels
little-endian, the low parcel first (R122, R170). -/
def decode (bytes : List Byte) : Except DecodeError Instr :=
  match bytes with
  | b0 :: b1 :: rest =>
    let h : Parcel := b1 ++ b0
    if hQuadrant h = 3#2 then
      if h.extractLsb' 2 3 = 7#3 then .error .longPrefix
      else
        match rest with
        | b2 :: b3 :: _ => decodeWord (b3 ++ b2 ++ b1 ++ b0)
        | _ => .error .truncated
    else decodeParcel h
  | _ => .error .truncated

/-- The four bytes of a word in memory order. -/
def wordBytes (w : Word) : List Byte :=
  [w.extractLsb' 0 8, w.extractLsb' 8 8, w.extractLsb' 16 8, w.extractLsb' 24 8]

/-- The instruction the decoder reads from the bits `w`, numbered as spec/opcode_table.json numbers
them, laid out in memory order; every bit above `nbits` is 0. -/
def decodeTableWord (nbits w : Nat) : Option Instr :=
  match decode (wordBytes (BitVec.ofNat 32 (w % 2 ^ nbits))) with
  | .ok i => some i
  | .error _ => none

/-! ## The encoder -/

/-- R format (R171). -/
def encR (funct7 : BitVec 7) (rs2 rs1 : BitVec 5) (funct3 : BitVec 3) (rd : BitVec 5)
    (op : BitVec 7) : Word := funct7 ++ rs2 ++ rs1 ++ funct3 ++ rd ++ op

/-- I format (R171). -/
def encI (imm : BitVec 12) (rs1 : BitVec 5) (funct3 : BitVec 3) (rd : BitVec 5) (op : BitVec 7) :
    Word := imm ++ rs1 ++ funct3 ++ rd ++ op

/-- S format (R171). -/
def encS (imm : BitVec 12) (rs2 rs1 : BitVec 5) (funct3 : BitVec 3) (op : BitVec 7) : Word :=
  imm.extractLsb' 5 7 ++ rs2 ++ rs1 ++ funct3 ++ imm.extractLsb' 0 5 ++ op

/-- B format (R171), from `imm[12:1]`. -/
def encB (off : BitVec 12) (rs2 rs1 : BitVec 5) (funct3 : BitVec 3) (op : BitVec 7) : Word :=
  off.extractLsb' 11 1 ++ off.extractLsb' 4 6 ++ rs2 ++ rs1 ++ funct3 ++ off.extractLsb' 0 4 ++
    off.extractLsb' 10 1 ++ op

/-- U format (R171). -/
def encU (imm : BitVec 20) (rd : BitVec 5) (op : BitVec 7) : Word := imm ++ rd ++ op

/-- J format (R171), from `imm[20:1]`. -/
def encJ (off : BitVec 20) (rd : BitVec 5) (op : BitVec 7) : Word :=
  off.extractLsb' 19 1 ++ off.extractLsb' 0 10 ++ off.extractLsb' 10 1 ++ off.extractLsb' 11 8 ++
    rd ++ op

/-- CI format (R186). -/
def encCI (f : BitVec 3) (hi : BitVec 1) (rd lo : BitVec 5) (q : BitVec 2) : Parcel :=
  f ++ hi ++ rd ++ lo ++ q

/-- CI format with `imm6`. -/
def encCI6 (f : BitVec 3) (imm : BitVec 6) (rd : BitVec 5) (q : BitVec 2) : Parcel :=
  encCI f (imm.extractLsb' 5 1) rd (imm.extractLsb' 0 5) q

/-- CL and CS formats (R186). -/
def encCL (f hi3 : BitVec 3) (rs1 : CReg) (lo2 : BitVec 2) (rd : CReg) : Parcel :=
  f ++ hi3 ++ rs1.bits ++ lo2 ++ rd.bits ++ 0#2

/-- The word-sized CL and CS forms, from `uimm[6:2]` (R413). -/
def encCLw (f : BitVec 3) (u : BitVec 5) (rs1 rd : CReg) : Parcel :=
  encCL f (u.extractLsb' 1 3) rs1 (u.extractLsb' 0 1 ++ u.extractLsb' 4 1) rd

/-- The capability-sized CL and CS forms, from `uimm[7:3]` (R414). -/
def encCLc (f : BitVec 3) (u : BitVec 5) (rs1 rd : CReg) : Parcel :=
  encCL f (u.extractLsb' 0 3) rs1 (u.extractLsb' 3 2) rd

/-- CSS format (R186). -/
def encCSS (f : BitVec 3) (imm : BitVec 6) (rs2 : BitVec 5) : Parcel := f ++ imm ++ rs2 ++ 2#2

/-- CJ format, from `off[11:1]` (R422). -/
def encCJ (f : BitVec 3) (o : BitVec 11) : Parcel :=
  f ++ o.extractLsb' 10 1 ++ o.extractLsb' 3 1 ++ o.extractLsb' 7 2 ++ o.extractLsb' 9 1 ++
    o.extractLsb' 5 1 ++ o.extractLsb' 6 1 ++ o.extractLsb' 0 3 ++ o.extractLsb' 4 1 ++ 1#2

/-- CB format of a branch, from `off[8:1]` (R435). -/
def encCB (f : BitVec 3) (o : BitVec 8) (rs1 : CReg) : Parcel :=
  f ++ o.extractLsb' 7 1 ++ o.extractLsb' 2 2 ++ rs1.bits ++ o.extractLsb' 5 2 ++
    o.extractLsb' 0 2 ++ o.extractLsb' 4 1 ++ 1#2

/-- CB format of a computation and CA format: funct3 100 of quadrant 1 (R426 to R432). -/
def encCA (hi : BitVec 1) (kind : BitVec 2) (rd : CReg) (lo : BitVec 5) : Parcel :=
  4#3 ++ hi ++ kind ++ rd.bits ++ lo ++ 1#2

/-- CR format: funct3 100 of quadrant 2 (R442 to R447). -/
def encCR (hi : BitVec 1) (rd rs2 : BitVec 5) : Parcel := 4#3 ++ hi ++ rd ++ rs2 ++ 2#2

/-- An encoded instruction: one parcel, or one 32-bit word (two parcels). -/
inductive Encoded where
  | parcel (h : Parcel)
  | word (w : Word)
deriving DecidableEq, Repr

/-- The encoding of an instruction (R175 to R179, 46_compressed.md). -/
def encode : Instr → Encoded
  | .lui rd imm => .word (encU imm rd.bits 0x37)
  | .addi rd rs1 imm => .word (encI imm rs1.bits 0 rd.bits 0x13)
  | .slti rd rs1 imm => .word (encI imm rs1.bits 2 rd.bits 0x13)
  | .sltiu rd rs1 imm => .word (encI imm rs1.bits 3 rd.bits 0x13)
  | .xori rd rs1 imm => .word (encI imm rs1.bits 4 rd.bits 0x13)
  | .ori rd rs1 imm => .word (encI imm rs1.bits 6 rd.bits 0x13)
  | .andi rd rs1 imm => .word (encI imm rs1.bits 7 rd.bits 0x13)
  | .slli rd rs1 shamt => .word (encR 0x00 shamt rs1.bits 1 rd.bits 0x13)
  | .srli rd rs1 shamt => .word (encR 0x00 shamt rs1.bits 5 rd.bits 0x13)
  | .srai rd rs1 shamt => .word (encR 0x20 shamt rs1.bits 5 rd.bits 0x13)
  | .add rd rs1 rs2 => .word (encR 0x00 rs2.bits rs1.bits 0 rd.bits 0x33)
  | .sub rd rs1 rs2 => .word (encR 0x20 rs2.bits rs1.bits 0 rd.bits 0x33)
  | .sll rd rs1 rs2 => .word (encR 0x00 rs2.bits rs1.bits 1 rd.bits 0x33)
  | .slt rd rs1 rs2 => .word (encR 0x00 rs2.bits rs1.bits 2 rd.bits 0x33)
  | .sltu rd rs1 rs2 => .word (encR 0x00 rs2.bits rs1.bits 3 rd.bits 0x33)
  | .xor rd rs1 rs2 => .word (encR 0x00 rs2.bits rs1.bits 4 rd.bits 0x33)
  | .srl rd rs1 rs2 => .word (encR 0x00 rs2.bits rs1.bits 5 rd.bits 0x33)
  | .sra rd rs1 rs2 => .word (encR 0x20 rs2.bits rs1.bits 5 rd.bits 0x33)
  | .or rd rs1 rs2 => .word (encR 0x00 rs2.bits rs1.bits 6 rd.bits 0x33)
  | .and rd rs1 rs2 => .word (encR 0x00 rs2.bits rs1.bits 7 rd.bits 0x33)
  | .mul rd rs1 rs2 => .word (encR 0x01 rs2.bits rs1.bits 0 rd.bits 0x33)
  | .mulh rd rs1 rs2 => .word (encR 0x01 rs2.bits rs1.bits 1 rd.bits 0x33)
  | .mulhsu rd rs1 rs2 => .word (encR 0x01 rs2.bits rs1.bits 2 rd.bits 0x33)
  | .mulhu rd rs1 rs2 => .word (encR 0x01 rs2.bits rs1.bits 3 rd.bits 0x33)
  | .div rd rs1 rs2 => .word (encR 0x01 rs2.bits rs1.bits 4 rd.bits 0x33)
  | .divu rd rs1 rs2 => .word (encR 0x01 rs2.bits rs1.bits 5 rd.bits 0x33)
  | .rem rd rs1 rs2 => .word (encR 0x01 rs2.bits rs1.bits 6 rd.bits 0x33)
  | .remu rd rs1 rs2 => .word (encR 0x01 rs2.bits rs1.bits 7 rd.bits 0x33)
  | .cjal cd off => .word (encJ off cd.bits 0x6f)
  | .cjalr rd rs1 imm => .word (encI imm rs1.bits 0 rd.bits 0x67)
  | .beq rs1 rs2 off => .word (encB off rs2.bits rs1.bits 0 0x63)
  | .bne rs1 rs2 off => .word (encB off rs2.bits rs1.bits 1 0x63)
  | .blt rs1 rs2 off => .word (encB off rs2.bits rs1.bits 4 0x63)
  | .bge rs1 rs2 off => .word (encB off rs2.bits rs1.bits 5 0x63)
  | .bltu rs1 rs2 off => .word (encB off rs2.bits rs1.bits 6 0x63)
  | .bgeu rs1 rs2 off => .word (encB off rs2.bits rs1.bits 7 0x63)
  | .clb rd rs1 imm => .word (encI imm rs1.bits 0 rd.bits 0x03)
  | .clh rd rs1 imm => .word (encI imm rs1.bits 1 rd.bits 0x03)
  | .clw rd rs1 imm => .word (encI imm rs1.bits 2 rd.bits 0x03)
  | .clbu rd rs1 imm => .word (encI imm rs1.bits 4 rd.bits 0x03)
  | .clhu rd rs1 imm => .word (encI imm rs1.bits 5 rd.bits 0x03)
  | .clc rd rs1 imm => .word (encI imm rs1.bits 3 rd.bits 0x03)
  | .csb rs2 rs1 imm => .word (encS imm rs2.bits rs1.bits 0 0x23)
  | .csh rs2 rs1 imm => .word (encS imm rs2.bits rs1.bits 1 0x23)
  | .csw rs2 rs1 imm => .word (encS imm rs2.bits rs1.bits 2 0x23)
  | .csc rs2 rs1 imm => .word (encS imm rs2.bits rs1.bits 3 0x23)
  | .fence fm pred succ rs1 rd => .word (encI (fm ++ pred ++ succ) rs1 0 rd 0x0f)
  | .fencei imm rs1 rd => .word (encI imm rs1 1 rd 0x0f)
  | .ecall => .word 0x00000073
  | .ebreak => .word 0x00100073
  | .wfi => .word 0x10500073
  | .mret => .word 0x30200073
  | .csrrw rd csr rs1 => .word (encI csr rs1.bits 1 rd.bits 0x73)
  | .csrrs rd csr rs1 => .word (encI csr rs1.bits 2 rd.bits 0x73)
  | .csrrc rd csr rs1 => .word (encI csr rs1.bits 3 rd.bits 0x73)
  | .csrrwi rd csr uimm => .word (encI csr uimm 5 rd.bits 0x73)
  | .csrrsi rd csr uimm => .word (encI csr uimm 6 rd.bits 0x73)
  | .csrrci rd csr uimm => .word (encI csr uimm 7 rd.bits 0x73)
  | .cspecialrw cd n cs1 => .word (encR 0x01 n.bits cs1.bits 0 cd.bits 0x5b)
  | .auipcc rd imm => .word (encU imm rd.bits 0x17)
  | .auicgp rd imm => .word (encU imm rd.bits 0x7b)
  | .cincaddr rd rs1 rs2 => .word (encR 0x11 rs2.bits rs1.bits 0 rd.bits 0x5b)
  | .cincaddrimm rd rs1 imm => .word (encI imm rs1.bits 1 rd.bits 0x5b)
  | .csetaddr rd rs1 rs2 => .word (encR 0x10 rs2.bits rs1.bits 0 rd.bits 0x5b)
  | .csetbounds rd rs1 rs2 => .word (encR 0x08 rs2.bits rs1.bits 0 rd.bits 0x5b)
  | .csetboundsexact rd rs1 rs2 => .word (encR 0x09 rs2.bits rs1.bits 0 rd.bits 0x5b)
  | .csetboundsimm rd rs1 imm => .word (encI imm rs1.bits 2 rd.bits 0x5b)
  | .candperm rd rs1 rs2 => .word (encR 0x0d rs2.bits rs1.bits 0 rd.bits 0x5b)
  | .cseal rd rs1 rs2 => .word (encR 0x0b rs2.bits rs1.bits 0 rd.bits 0x5b)
  | .cunseal rd rs1 rs2 => .word (encR 0x0c rs2.bits rs1.bits 0 rd.bits 0x5b)
  | .cmove rd rs1 => .word (encR 0x7f 0x0a rs1.bits 0 rd.bits 0x5b)
  | .ccleartag rd rs1 => .word (encR 0x7f 0x0b rs1.bits 0 rd.bits 0x5b)
  | .csethigh rd rs1 rs2 => .word (encR 0x16 rs2.bits rs1.bits 0 rd.bits 0x5b)
  | .cgetperm rd rs1 => .word (encR 0x7f 0x00 rs1.bits 0 rd.bits 0x5b)
  | .cgettype rd rs1 => .word (encR 0x7f 0x01 rs1.bits 0 rd.bits 0x5b)
  | .cgetbase rd rs1 => .word (encR 0x7f 0x02 rs1.bits 0 rd.bits 0x5b)
  | .cgetlen rd rs1 => .word (encR 0x7f 0x03 rs1.bits 0 rd.bits 0x5b)
  | .cgettop rd rs1 => .word (encR 0x7f 0x18 rs1.bits 0 rd.bits 0x5b)
  | .cgettag rd rs1 => .word (encR 0x7f 0x04 rs1.bits 0 rd.bits 0x5b)
  | .cgetaddr rd rs1 => .word (encR 0x7f 0x0f rs1.bits 0 rd.bits 0x5b)
  | .cgethigh rd rs1 => .word (encR 0x7f 0x17 rs1.bits 0 rd.bits 0x5b)
  | .csub rd rs1 rs2 => .word (encR 0x14 rs2.bits rs1.bits 0 rd.bits 0x5b)
  | .ctestsubset rd rs1 rs2 => .word (encR 0x20 rs2.bits rs1.bits 0 rd.bits 0x5b)
  | .csetequalexact rd rs1 rs2 => .word (encR 0x21 rs2.bits rs1.bits 0 rd.bits 0x5b)
  | .crrl rd rs1 => .word (encR 0x7f 0x08 rs1.bits 0 rd.bits 0x5b)
  | .cram rd rs1 => .word (encR 0x7f 0x09 rs1.bits 0 rd.bits 0x5b)
  | .rvcAddi4spn cd u => .parcel (0#3 ++ u.extractLsb' 2 2 ++ u.extractLsb' 4 4 ++ u.extractLsb' 0 1 ++ u.extractLsb' 1 1 ++ cd.bits ++ 0#2)
  | .rvcLw rd rs1 u => .parcel (encCLw 2 u rs1 rd)
  | .rvcLc rd rs1 u => .parcel (encCLc 3 u rs1 rd)
  | .rvcSw rs2 rs1 u => .parcel (encCLw 6 u rs1 rs2)
  | .rvcSc rs2 rs1 u => .parcel (encCLc 7 u rs1 rs2)
  | .rvcNop imm => .parcel (encCI6 0 imm 0 1)
  | .rvcAddi rd imm => .parcel (encCI6 0 imm rd.bits 1)
  | .rvcJal off => .parcel (encCJ 1 off)
  | .rvcLi rd imm => .parcel (encCI6 2 imm rd.bits 1)
  | .rvcAddi16sp n => .parcel (encCI 3 (n.extractLsb' 5 1) 2 (n.extractLsb' 0 1 ++ n.extractLsb' 2 1 ++ n.extractLsb' 3 2 ++ n.extractLsb' 1 1) 1)
  | .rvcLui rd imm => .parcel (encCI6 3 imm rd.bits 1)
  | .rvcSrli rd shamt => .parcel (encCA 0 0 rd shamt)
  | .rvcSrai rd shamt => .parcel (encCA 0 1 rd shamt)
  | .rvcAndi rd imm => .parcel (encCA (imm.extractLsb' 5 1) 2 rd (imm.extractLsb' 0 5))
  | .rvcSub rd rs2 => .parcel (encCA 0 3 rd (0#2 ++ rs2.bits))
  | .rvcXor rd rs2 => .parcel (encCA 0 3 rd (1#2 ++ rs2.bits))
  | .rvcOr rd rs2 => .parcel (encCA 0 3 rd (2#2 ++ rs2.bits))
  | .rvcAnd rd rs2 => .parcel (encCA 0 3 rd (3#2 ++ rs2.bits))
  | .rvcJ off => .parcel (encCJ 5 off)
  | .rvcBeqz rs1 off => .parcel (encCB 6 off rs1)
  | .rvcBnez rs1 off => .parcel (encCB 7 off rs1)
  | .rvcSlli rd shamt => .parcel (encCI 0 0 rd.bits shamt 2)
  | .rvcLwsp rd u => .parcel (encCI 2 (u.extractLsb' 3 1) rd.bits (u.extractLsb' 0 3 ++ u.extractLsb' 4 2) 2)
  | .rvcLcsp rd u => .parcel (encCI 3 (u.extractLsb' 2 1) rd.bits (u.extractLsb' 0 2 ++ u.extractLsb' 3 3) 2)
  | .rvcJr rs1 => .parcel (encCR 0 rs1.bits 0)
  | .rvcMv rd rs2 => .parcel (encCR 0 rd.bits rs2.bits)
  | .rvcEbreak => .parcel 0x9002
  | .rvcJalr rs1 => .parcel (encCR 1 rs1.bits 0)
  | .rvcAdd rd rs2 => .parcel (encCR 1 rd.bits rs2.bits)
  | .rvcSwsp rs2 u => .parcel (encCSS 6 (u.extractLsb' 0 4 ++ u.extractLsb' 4 2) rs2.bits)
  | .rvcScsp rs2 u => .parcel (encCSS 7 (u.extractLsb' 0 3 ++ u.extractLsb' 3 3) rs2.bits)

/-- The bytes of an encoded instruction in memory order (R122). -/
def Encoded.bytes : Encoded → List Byte
  | .parcel h => [h.extractLsb' 0 8, h.extractLsb' 8 8]
  | .word w => wordBytes w

/-- The instruction bits as `mtval` may record them: a 16-bit instruction is zero-extended (R461). -/
def Encoded.bits : Encoded → Word
  | .parcel h => h.setWidth 32
  | .word w => w

/-- The length of an instruction in bytes, 2 or 4. -/
def Encoded.length : Encoded → Nat
  | .parcel _ => 2
  | .word _ => 4

end Sys2Proof
end

