-- ==== Sys2Proof/Machine/Cap.lean ====
section
/-! DEFINITION. The capability value: fields, permissions, object type, bounds, representability and
the choice of bounds (10_state.md section 3). -/

namespace Sys2Proof.Machine

/-- A capability (R40, R41): the tag and the stored fields R, p, otype, E, T, B and the address. -/
structure Cap where
  tag : Bool
  r : Bool
  p : BitVec 6
  otype : BitVec 3
  e : BitVec 4
  t : BitVec 9
  b : BitVec 9
  a : Word
deriving DecidableEq, Repr

/-- `meta(c)`: the metadata word `cap[63:32]` (R41). -/
def Cap.high (c : Cap) : Word := BitVec.ofBool c.r ++ c.p ++ c.otype ++ c.e ++ c.t ++ c.b

/-- `mkcap` of a tag, a metadata word and an address (R41). -/
def mkcap (tag : Bool) (high a : Word) : Cap where
  tag := tag
  r := high.getLsbD 31
  p := high.extractLsb' 25 6
  otype := high.extractLsb' 22 3
  e := high.extractLsb' 18 4
  t := high.extractLsb' 9 9
  b := high.extractLsb' 0 9
  a := a

/-- `null_with(v)` (R72). -/
def nullWith (v : Word) : Cap where
  tag := false
  r := false
  p := 0
  otype := 0
  e := 0
  t := 0
  b := 0
  a := v

/-- NULL (R72). -/
def Cap.null : Cap := nullWith 0

/-! ## Permissions (3.2) -/

/-- The twelve architectural permissions (R43). -/
inductive Perm where
  | gl | lg | sd | lm | sl | ld | mc | sr | ex | us | se | u0
deriving DecidableEq, Repr

/-- The bit of a permission in the architectural vector (R43). -/
def Perm.bit : Perm → Nat
  | .gl => 0
  | .lg => 1
  | .sd => 2
  | .lm => 3
  | .sl => 4
  | .ld => 5
  | .mc => 6
  | .sr => 7
  | .ex => 8
  | .us => 9
  | .se => 10
  | .u0 => 11

/-- A permission vector holds a permission. -/
def hasPerm (m : BitVec 12) (q : Perm) : Bool := m.getLsbD q.bit

/-- A permission vector without a permission. -/
def dropPerm (m : BitVec 12) (q : Perm) : BitVec 12 := m &&& ~~~(1#12 <<< q.bit)

/-- A permission vector from its bits, the most significant first, as the figure of R43 draws it. -/
def permVector (u0 se us ex sr mc ld sl lm sd lg gl : Bool) : BitVec 12 :=
  BitVec.ofBool u0 ++ BitVec.ofBool se ++ BitVec.ofBool us ++ BitVec.ofBool ex ++
    BitVec.ofBool sr ++ BitVec.ofBool mc ++ BitVec.ofBool ld ++ BitVec.ofBool sl ++
    BitVec.ofBool lm ++ BitVec.ofBool sd ++ BitVec.ofBool lg ++ BitVec.ofBool gl

/-- `perms_of` (R46): the architectural vector of a 6-bit field. -/
def permsOf (p : BitVec 6) : BitVec 12 :=
  let gl := p.getLsbD 5
  let p2 := p.getLsbD 2
  let p1 := p.getLsbD 1
  let p0 := p.getLsbD 0
  if p.extractLsb' 3 2 = 3#2 then
    permVector false false false false false true true p2 p1 true p0 gl
  else if p.extractLsb' 2 3 = 5#3 then
    permVector false false false false false true true false p1 false p0 gl
  else if p.extractLsb' 0 5 = 16#5 then
    permVector false false false false false true false false false true false gl
  else if p.extractLsb' 2 3 = 4#3 then
    permVector false false false false false false p1 false false p0 false gl
  else if p.extractLsb' 3 2 = 1#2 then
    permVector false false false true p2 true true false p1 false p0 gl
  else permVector p2 p1 p0 false false false false false false false false gl

/-- Bits 4:0 of `encperms` (R47): the format and what it can hold of the requested set. -/
def encpermsLow (m : BitVec 12) : BitVec 5 :=
  if hasPerm m .ex && hasPerm m .ld && hasPerm m .mc then
    1#2 ++ BitVec.ofBool (hasPerm m .sr) ++ BitVec.ofBool (hasPerm m .lm) ++
      BitVec.ofBool (hasPerm m .lg)
  else if hasPerm m .ld && hasPerm m .mc && hasPerm m .sd then
    3#2 ++ BitVec.ofBool (hasPerm m .sl) ++ BitVec.ofBool (hasPerm m .lm) ++
      BitVec.ofBool (hasPerm m .lg)
  else if hasPerm m .ld && hasPerm m .mc then
    5#3 ++ BitVec.ofBool (hasPerm m .lm) ++ BitVec.ofBool (hasPerm m .lg)
  else if hasPerm m .sd && hasPerm m .mc then 16#5
  else if hasPerm m .ld || hasPerm m .sd then
    4#3 ++ BitVec.ofBool (hasPerm m .ld) ++ BitVec.ofBool (hasPerm m .sd)
  else
    0#2 ++ BitVec.ofBool (hasPerm m .u0) ++ BitVec.ofBool (hasPerm m .se) ++
      BitVec.ofBool (hasPerm m .us)

/-- `encperms` (R47): the 6-bit field of a requested set, which drops what its format cannot hold. -/
def encperms (m : BitVec 12) : BitVec 6 := BitVec.ofBool (hasPerm m .gl) ++ encpermsLow m

/-- `perms(c)` (R46). -/
def Cap.perms (c : Cap) : BitVec 12 := permsOf c.p

/-- A capability has a permission. -/
def Cap.has (c : Cap) (q : Perm) : Bool := hasPerm c.perms q

/-- `isExec(c)`: the executable format (R46). -/
def Cap.isExec (c : Cap) : Bool := c.p.extractLsb' 3 2 == 1#2

/-- `setperms(c, m)` (R48). -/
def Cap.setPerms (c : Cap) (m : BitVec 12) : Cap := { c with p := encperms m }

/-! ## Roots (R52) -/

/-- A root: tagged, unsealed, the bounds of the whole address space, address 0 (R52, D8). -/
def rootCap (p : BitVec 6) : Cap where
  tag := true
  r := false
  p := p
  otype := 0
  e := 15
  t := 0x100
  b := 0
  a := 0

/-- ROOT_M. -/
def rootM : Cap := rootCap 0b111111

/-- ROOT_X. -/
def rootX : Cap := rootCap 0b101111

/-- ROOT_S. -/
def rootS : Cap := rootCap 0b100111

/-! ## Object type (3.3) -/

/-- `sealed(c)` (R54). -/
def Cap.isSealed (c : Cap) : Bool := c.otype != 0

/-- `archotype(c)` (R54): bit 3 is implied by a format that is not executable. -/
def Cap.archotype (c : Cap) : BitVec 4 :=
  if c.otype = 0 then 0
  else if c.isExec then 0#1 ++ c.otype
  else 1#1 ++ c.otype

/-- `otype_ok(c, t)` (R54). -/
def Cap.otypeOk (c : Cap) (t : Word) : Bool :=
  if c.isExec then decide (1 ≤ t.toNat ∧ t.toNat ≤ 7) else decide (9 ≤ t.toNat ∧ t.toNat ≤ 15)

/-- `sealwith(c, t)` (R54), of the three low bits of `t`. -/
def Cap.sealWith (c : Cap) (t : BitVec 3) : Cap := { c with otype := t }

/-- `unseal(c)` (R54). -/
def Cap.unseal (c : Cap) : Cap := { c with otype := 0 }

/-! ## Bounds (3.4, 3.5) -/

/-- The effective exponent `e` (R61). -/
def Cap.exp (c : Cap) : Nat := if c.e = 15 then 24 else c.e.toNat

/-- `a_top` (R62). -/
def Cap.aTop (c : Cap) : Nat := c.a.toNat / 2 ^ (c.exp + 9)

/-- `a_mid` (R62). -/
def Cap.aMid (c : Cap) : Nat := c.a.toNat / 2 ^ c.exp % 512

/-- `c_b` (R62). -/
def Cap.baseCorrection (c : Cap) : Int := if c.aMid < c.b.toNat then -1 else 0

/-- `c_t` (R62). -/
def Cap.topCorrection (c : Cap) : Int :=
  if c.aMid < c.b.toNat ∧ c.b.toNat ≤ c.t.toNat then -1
  else if c.b.toNat ≤ c.aMid ∧ c.t.toNat < c.b.toNat then 1
  else 0

/-- The decoded base, kept to 32 bits (R62, R63). -/
def Cap.base (c : Cap) : Nat :=
  ((((c.aTop : Int) + c.baseCorrection) * 512 + (c.b.toNat : Int)) * 2 ^ c.exp % 4294967296).toNat

/-- The decoded top, kept to 33 bits (R62, R63). -/
def Cap.top (c : Cap) : Nat :=
  ((((c.aTop : Int) + c.topCorrection) * 512 + (c.t.toNat : Int)) * 2 ^ c.exp % 8589934592).toNat

/-- `inBounds(c, addr, n)`; the sum does not wrap (R66). -/
def Cap.inBounds (c : Cap) (addr n : Nat) : Bool := decide (c.base ≤ addr ∧ addr + n ≤ c.top)

/-- `c` with its address replaced and nothing else. -/
def Cap.moved (c : Cap) (a : Word) : Cap := { c with a := a }

/-- `representable(c, a')` (R67): the decoded bounds stay the same. -/
def Cap.representable (c : Cap) (a : Word) : Bool :=
  decide ((c.moved a).base = c.base ∧ (c.moved a).top = c.top)

/-- `withAddr(c, a')` (R68). -/
def Cap.withAddr (c : Cap) (a : Word) : Cap :=
  { c with a := a, tag := c.tag && !c.isSealed && c.representable a }

/-! ## Choosing bounds (3.6) -/

/-- `clz32` (R10). -/
def clz32 (v : Word) : Nat := if v.toNat = 0 then 32 else 31 - v.toNat.log2

/-- Exponents above 14 become 24 (R69). -/
def capExp (e : Nat) : Nat := if e ≤ 14 then e else 24

/-- `B10` at an exponent: ten bits of the base (R69). -/
def baseUnits (x : Nat) (b : Word) : Nat := b.toNat / 2 ^ x % 1024

/-- `T10` at an exponent: ten bits of the top, rounded up (R69). -/
def topUnits (x : Nat) (b l : Word) : Nat :=
  ((b.toNat + l.toNat) / 2 ^ x + (if (b.toNat + l.toNat) % 2 ^ x = 0 then 0 else 1)) % 1024

/-- The exponent first tried (R69). -/
def firstExp (l : Word) : Nat := capExp (23 - clz32 l)

/-- The final exponent `e'` (R69, D17): one more when the length does not fit. -/
def boundsExp (b l : Word) : Nat :=
  let x := firstExp l
  if 511 < (topUnits x b l + 1024 - baseUnits x b) % 1024 then capExp (x + 1) else x

/-- The flag `exact` of `encbounds` (R69). -/
def boundsExact (b l : Word) : Bool :=
  let x := boundsExp b l
  decide (b.toNat % 2 ^ x = 0 ∧ (b.toNat + l.toNat) % 2 ^ x = 0)

/-- `setbounds(c, b, l)` (R69, R70): the fields E, B and T of `encbounds(b, l)`. -/
def Cap.setBounds (c : Cap) (b l : Word) : Cap :=
  let x := boundsExp b l
  { c with
    e := if x = 24 then 15 else BitVec.ofNat 4 x
    b := BitVec.ofNat 9 (baseUnits x b)
    t := BitVec.ofNat 9 (topUnits x b l) }

end Sys2Proof.Machine
end

