-- ==== Sys2Proof/Config.lean ====
section
/-! DEFINITION. The platform parameters of 00_scope.md R8 as plain data, and the values the spec
leaves free as opaque constants. A state carries its platform, so that a statement about every
state is a statement about every platform (log 1). -/

namespace Sys2Proof

/-- What a physical byte address holds, where it holds anything (`Mapped`, R8, R120). -/
inductive MemKind where
  | ram
  | mmio
deriving DecidableEq, Repr

/-- `size` bytes from `base` on that hold memory of one kind. -/
structure Region where
  base : Nat
  size : Nat
  kind : MemKind
deriving DecidableEq, Repr

/-- `size` bytes from `base` on. -/
structure Range where
  base : Nat
  size : Nat
deriving DecidableEq, Repr

/-- The granules in `size` bytes from `base` on have revocation bits: granule number `i` of the
range has bit `firstBit + i` of the bitmap that begins at byte address `bitmap` (`RevBit`, R111). -/
structure RevRange where
  base : Nat
  size : Nat
  bitmap : Nat
  firstBit : Nat
deriving DecidableEq, Repr

/-- What `mtval` records on an illegal instruction (`MTVAL_ILLEGAL`, R461). -/
inductive MtvalIllegal where
  | zero
  | instructionBits
deriving DecidableEq, Repr

/-- The exception of an `mshwm` or `mshwmb` access without SR (`SHWM_NOASR_CAUSE`, R340). -/
inductive ShwmNoAsrCause where
  | cheriAsr
  | illegal
deriving DecidableEq, Repr

/-- The named parameters of R8. The reset contents of tags, revocation bits and memory are in
`Machine.ResetDraws`; pending interrupt lines are the state's `mip`. -/
structure Platform where
  /-- `HAS_M`. -/
  hasM : Bool
  /-- Bits 31:1 of `RESET_PC`, whose bit 0 is clear. -/
  resetPcHigh : BitVec 31
  /-- `Mapped`: the first region that holds an address decides. -/
  regions : List Region
  /-- `Tagged`: a granule has a tag bit when its address lies in one of the ranges. -/
  tagged : List Range
  /-- `RevBit`: the first range that holds a granule decides. -/
  revocation : List RevRange
  /-- `MISALIGNED_DATA_OK`. -/
  misalignedDataOk : Bool
  /-- `MTVAL_ILLEGAL`. -/
  mtvalIllegal : MtvalIllegal
  /-- `NUM_HPM`. -/
  numHpm : Fin 30
  /-- `CANDPERM_SEALED_GL_OK`. -/
  candpermSealedGlOk : Bool
  /-- `SHWM_NOASR_CAUSE`. -/
  shwmNoAsrCause : ShwmNoAsrCause
  /-- `IRQ`: the local interrupts present, as bit numbers less 16, highest priority first (R471). -/
  localIrqs : List (Fin 16)
  /-- `IRQ`: the local bits of `mip` that software may write (R94). -/
  mipWritable : Word
  mvendorid : Word
  marchid : Word
  mimpid : Word
  mhartid : Word
deriving DecidableEq, Repr

/-- DESIGN CHOICE (log 1): the platform of `State.reset`. The parameter values are those
95_test_vectors.md uses; the whole address space is tagged ram and no granule has a revocation
bit. -/
def Platform.reference : Platform where
  hasM := true
  resetPcHigh := 0x10000000#31
  regions := [{ base := 0, size := 4294967296, kind := .ram }]
  tagged := [{ base := 0, size := 4294967296 }]
  revocation := []
  misalignedDataOk := true
  mtvalIllegal := .zero
  numHpm := 0
  candpermSealedGlOk := false
  shwmNoAsrCause := .cheriAsr
  localIrqs := []
  mipWritable := 0
  mvendorid := 0
  marchid := 0
  mimpid := 0
  mhartid := 0

/-- Why a device byte is read: reads for different purposes in one step are different draws. -/
inductive ReadPurpose where
  | data
  | fetch
  | revocation
deriving DecidableEq, Repr

/-- The counters whose reads are draws (R99); a shadow is its counter. -/
inductive Counter where
  | cycle
  | instret
  | time
  | hpm (n : Fin 29)
deriving DecidableEq, Repr

/-- Free value (log 8, U24): the byte a device answers at an address, for a purpose, in the step
with this draw number. -/
opaque Config.deviceByte : ReadPurpose → Nat → Nat → Byte

/-- Free value (log 3, D25): what a read of a counter gives, from the value it holds and the draw
number of the step. -/
opaque Config.counterRead : Counter → BitVec 64 → Nat → BitVec 64

/-- Free value (log 12, U12): what `mcause` reads as when it holds a value that is no cause of this
machine, from the held value and the draw number of the step. -/
opaque Config.mcauseRead : Word → Nat → Word

/-- Free value (log 11, U25): whether a store made since the last FENCE.I, given by its number since
then, is seen by a fetch of the parcel at an address, in the step with this draw number. -/
opaque Config.fetchSeesStore : Nat → Nat → Nat → Bool

end Sys2Proof
end

