-- ==== Sys2Proof/Machine/Memory.lean ====
section
/-! DEFINITION. Byte memory and tag memory as plain data in one canonical form, and the platform's
functions `Mapped`, `Tagged` and `RevBit` (20_memory.md, 10_state.md section 6). -/

namespace Sys2Proof.Machine

/-- Byte memory: the bytes that differ from what an unlisted address reads as, addresses strictly
rising. -/
abbrev Memory := List Host.Cell

/-- DESIGN CHOICE (log 4): what an unlisted address reads as. R114 gives memory no reset value. -/
def Memory.resetByte : Byte := 0

/-- The byte at an address. -/
def Memory.read : Memory → Nat → Byte
  | [], _ => Memory.resetByte
  | (k, v) :: rest, a => if k = a then v else Memory.read rest a

/-- A cell put where its address belongs. -/
def Memory.insertCell : Memory → Nat → Byte → Memory
  | [], a, v => [(a, v)]
  | (k, w) :: rest, a, v =>
    if a < k then (a, v) :: (k, w) :: rest else (k, w) :: Memory.insertCell rest a v

/-- Every cell of an address taken out. -/
def Memory.erase (m : Memory) (a : Nat) : Memory := m.filter (fun c => c.1 != a)

/-- The memory with one byte written. -/
def Memory.write (m : Memory) (a : Nat) (v : Byte) : Memory :=
  if v = Memory.resetByte then m.erase a else (m.erase a).insertCell a v

/-- The canonical form. -/
abbrev Memory.wf (m : Memory) : Prop :=
  m.Pairwise (fun x y => x.1 < y.1) ∧ ∀ c ∈ m, c.2 ≠ Memory.resetByte

/-- Tag memory: the addresses of the granules whose tag is 1, strictly rising (R110). -/
abbrev TagMemory := List Nat

/-- `tagmem[g]`. -/
def TagMemory.read (t : TagMemory) (g : Nat) : Bool := t.contains g

/-- An address put where it belongs. -/
def TagMemory.insertTag : TagMemory → Nat → TagMemory
  | [], g => [g]
  | k :: rest, g => if g < k then g :: k :: rest else k :: TagMemory.insertTag rest g

/-- `tagmem[g] <- 0`. -/
def TagMemory.clear (t : TagMemory) (g : Nat) : TagMemory := t.filter (fun k => k != g)

/-- `tagmem[g] <- v`. -/
def TagMemory.write (t : TagMemory) (g : Nat) (v : Bool) : TagMemory :=
  if v then (t.clear g).insertTag g else t.clear g

/-- The canonical form. -/
abbrev TagMemory.wf (t : TagMemory) : Prop := t.Pairwise (fun x y => x < y)

/-- The address of the granule an address lies in (R131). -/
def granule (a : Nat) : Nat := a / 8 * 8

/-- `Mapped(a)` (R8, R120). Nothing lies at 2^32 and above (log 15). -/
def mapped (p : Platform) (a : Nat) : Option MemKind :=
  if a < 4294967296 then
    (p.regions.find? fun r => decide (r.base ≤ a ∧ a < r.base + r.size)).map (·.kind)
  else none

/-- The address is one of a device (R129). -/
def isDevice (p : Platform) (a : Nat) : Bool := mapped p a == some .mmio

/-- `Tagged(g)` (R8, R110). -/
def tagged (p : Platform) (g : Nat) : Bool :=
  p.tagged.any fun r => decide (r.base ≤ g ∧ g < r.base + r.size)

/-- `RevBit(g)`: byte address and bit number (R8, R111). -/
def revBit (p : Platform) (g : Nat) : Option (Nat × Nat) :=
  (p.revocation.find? fun r => decide (r.base ≤ g ∧ g < r.base + r.size)).map fun r =>
    let k := r.firstBit + (g - r.base) / 8
    (r.bitmap + k / 8, k % 8)

end Sys2Proof.Machine
end

