-- ==== Sys2Proof/Machine/State.lean ====
section
/-! DEFINITION. The state of the machine as plain data (10_state.md), its reset value (R114), and the
reasons a step may stop with. -/

namespace Sys2Proof.Machine

/-- The registers `c1` .. `c15`; `c0` is hard-wired (R30, R32). -/
structure Regs where
  c1 : Cap
  c2 : Cap
  c3 : Cap
  c4 : Cap
  c5 : Cap
  c6 : Cap
  c7 : Cap
  c8 : Cap
  c9 : Cap
  c10 : Cap
  c11 : Cap
  c12 : Cap
  c13 : Cap
  c14 : Cap
  c15 : Cap
deriving DecidableEq, Repr

/-- A store since the last FENCE.I: where its bytes begin, and the bytes (R152). -/
structure UnfencedStore where
  addr : Nat
  bytes : List Byte
deriving DecidableEq, Repr

/-- Everything the spec gives the machine, and two fields of the model's own: `platform` and
`draws`. -/
structure State where
  /-- `c1` .. `c15` (R30). -/
  regs : Regs
  /-- `PCCcap` (R37). -/
  pcc : Cap
  /-- `pc` (R36). -/
  pc : Word
  /-- SCR 28 (R80). -/
  mtcc : Cap
  /-- SCR 29 (R80). -/
  mtdc : Cap
  /-- SCR 30 (R80). -/
  mscratchc : Cap
  /-- SCR 31 (R80). -/
  mepcc : Cap
  /-- `mstatus.MIE` (R92). -/
  mstatusMie : Bool
  /-- `mstatus.MPIE` (R92). -/
  mstatusMpie : Bool
  /-- `mie` (R94). -/
  mie : Word
  /-- `mip`, driven by the platform (R94, R470). -/
  mip : Word
  /-- `mcause` (R95). -/
  mcause : Word
  /-- `mtval` (R96). -/
  mtval : Word
  /-- `mscratch` (R97). -/
  mscratch : Word
  /-- Bits 31:4 of `mshwm` (R101). -/
  mshwm : BitVec 28
  /-- Bits 31:4 of `mshwmb` (R102). -/
  mshwmb : BitVec 28
  /-- `mcycleh`, `mcycle` (R99). -/
  mcycle : BitVec 64
  /-- `minstreth`, `minstret` (R99). -/
  minstret : BitVec 64
  /-- `timeh`, `time` (R99). -/
  time : BitVec 64
  /-- `hpmcounter3` .. `hpmcounter31` (R99). -/
  hpm : List (BitVec 64)
  /-- Memory bytes (R110). -/
  mem : Memory
  /-- Memory at the last FENCE.I, which every fetch sees (R152, R331; log 11). -/
  codeMem : Memory
  /-- The stores since the last FENCE.I, newest first: a fetch may or may not see each (R152; log 11). -/
  unfenced : List UnfencedStore
  /-- The granules whose tag bit is set (R110). -/
  tags : TagMemory
  /-- The model's own: how many steps have drawn (log 7). -/
  draws : Nat
  /-- The model's own: the parameters of R8, written by no step (log 1). -/
  platform : Platform
deriving DecidableEq, Repr

/-- No step ends in a fault: the spec has no rule that stops the machine (R484, R496; log 24). -/
inductive Fault where
deriving DecidableEq, Repr

/-- Why a step may be refused. -/
inductive Refusal where
  /-- No meaning for the instruction. Raised by nobody: every instruction has its meaning. Safe. -/
  | notModelled (mnemonic : String)
deriving DecidableEq, Repr

/-- What an instruction or a step answers. -/
abbrev Result := Host.Outcome State Fault Refusal

/-- What R114 leaves unspecified or gives to the platform at reset: the values a reset draws. -/
structure ResetDraws where
  mpie : Bool
  mie : Word
  mip : Word
  mcause : Word
  mtval : Word
  mscratch : Word
  mshwm : BitVec 28
  mshwmb : BitVec 28
  mcycle : BitVec 64
  minstret : BitVec 64
  time : BitVec 64
  hpm : List (BitVec 64)
  /-- Bytes to be written over the byte an unlisted address reads as. -/
  mem : List Host.Cell
  /-- Granules whose tag is to be set (`TAGS_AT_RESET`). -/
  tags : List Nat
deriving DecidableEq, Repr

/-- DESIGN CHOICE (log 2 to 6): the draws of `State.reset`, all zero and all clear. -/
def ResetDraws.zero : ResetDraws where
  mpie := false
  mie := 0
  mip := 0
  mcause := 0
  mtval := 0
  mscratch := 0
  mshwm := 0
  mshwmb := 0
  mcycle := 0
  minstret := 0
  time := 0
  hpm := List.replicate 29 0
  mem := []
  tags := []

/-- Every general register NULL (R114). -/
def Regs.null : Regs where
  c1 := Cap.null
  c2 := Cap.null
  c3 := Cap.null
  c4 := Cap.null
  c5 := Cap.null
  c6 := Cap.null
  c7 := Cap.null
  c8 := Cap.null
  c9 := Cap.null
  c10 := Cap.null
  c11 := Cap.null
  c12 := Cap.null
  c13 := Cap.null
  c14 := Cap.null
  c15 := Cap.null

/-- Memory as the reset draws have it, in canonical form. -/
def ResetDraws.memory (d : ResetDraws) : Memory :=
  d.mem.foldl (fun m c => Memory.write m c.1 c.2) []

/-- Tag memory as the reset draws have it, in canonical form. -/
def ResetDraws.tagMemory (d : ResetDraws) : TagMemory :=
  d.tags.foldl (fun t g => TagMemory.write t g true) []

/-- The machine after reset on a platform, with the draws of that reset (R114, R520, R522). -/
def State.resetOn (p : Platform) (d : ResetDraws) : State where
  regs := Regs.null
  pcc := rootX.moved (p.resetPcHigh ++ 0#1)
  pc := p.resetPcHigh ++ 0#1
  mtcc := rootX
  mtdc := rootM
  mscratchc := rootS
  mepcc := rootX
  mstatusMie := false
  mstatusMpie := d.mpie
  mie := d.mie
  mip := d.mip
  mcause := d.mcause
  mtval := d.mtval
  mscratch := d.mscratch
  mshwm := d.mshwm
  mshwmb := d.mshwmb
  mcycle := d.mcycle
  minstret := d.minstret
  time := d.time
  hpm := d.hpm
  mem := d.memory
  codeMem := d.memory
  unfenced := []
  tags := d.tagMemory
  draws := 0
  platform := p

/-- The machine right after reset: the reference platform of log 1, every draw zero (log 2 to 6). -/
def State.reset : State := State.resetOn Platform.reference ResetDraws.zero

end Sys2Proof.Machine
end

