-- ==== Sys2Proof/Machine/Flags.lean ====
section
/-! DEFINITION. The machine has no condition flags (R113). Its one flag-like bit, `mstatus.MIE`: how a
sentry changes it, which sentry type records it, and the word `mstatus` (R56, R92, R284). -/

namespace Sys2Proof.Machine

/-- `mstatus.MIE` after a jump to a capability of an architectural otype (R56, R286 step 6). -/
def sentryMie (ot : BitVec 4) (mie : Bool) : Bool :=
  if ot = 2 ∨ ot = 4 then false
  else if ot = 3 ∨ ot = 5 then true
  else mie

/-- The otype of the link sentry (R284). -/
def linkOtype (mie : Bool) : BitVec 3 := if mie then 5 else 4

/-- The word `mstatus` (R92): MIE in bit 3, MPIE in bit 7, MPP = 0b11 in bits 12:11. -/
def mstatusWord (mie mpie : Bool) : Word :=
  3#21 ++ 0#3 ++ BitVec.ofBool mpie ++ 0#3 ++ BitVec.ofBool mie ++ 0#3

end Sys2Proof.Machine
end

