-- ==== Sys2Proof/Machine/Operands.lean ====
section
/-! DEFINITION. Operands: register access, the integer view of a register, the immediates of
30_encoding.md R173 and of 46_compressed.md. -/

namespace Sys2Proof.Machine

/-! ## Registers -/

/-- The value of a register; `c0` reads NULL (R32). -/
def Regs.get (g : Regs) : Reg → Cap
  | .c0 => Cap.null
  | .c1 => g.c1
  | .c2 => g.c2
  | .c3 => g.c3
  | .c4 => g.c4
  | .c5 => g.c5
  | .c6 => g.c6
  | .c7 => g.c7
  | .c8 => g.c8
  | .c9 => g.c9
  | .c10 => g.c10
  | .c11 => g.c11
  | .c12 => g.c12
  | .c13 => g.c13
  | .c14 => g.c14
  | .c15 => g.c15

/-- A register written; a write to `c0` is discarded (R32). -/
def Regs.set (g : Regs) (r : Reg) (v : Cap) : Regs :=
  match r with
  | .c0 => g
  | .c1 => { g with c1 := v }
  | .c2 => { g with c2 := v }
  | .c3 => { g with c3 := v }
  | .c4 => { g with c4 := v }
  | .c5 => { g with c5 := v }
  | .c6 => { g with c6 := v }
  | .c7 => { g with c7 := v }
  | .c8 => { g with c8 := v }
  | .c9 => { g with c9 := v }
  | .c10 => { g with c10 := v }
  | .c11 => { g with c11 := v }
  | .c12 => { g with c12 := v }
  | .c13 => { g with c13 := v }
  | .c14 => { g with c14 := v }
  | .c15 => { g with c15 := v }

/-- `c[r]` (R11). -/
def State.reg (s : State) (r : Reg) : Cap := s.regs.get r

/-- `x[r]` (R11). -/
def State.x (s : State) (r : Reg) : Word := (s.reg r).a

/-- `c[r] <- v` (R11). -/
def State.setReg (s : State) (r : Reg) (v : Cap) : State := { s with regs := s.regs.set r v }

/-- `x[r] <- v`: NULL with the address `v` (R11, R33). -/
def State.setX (s : State) (r : Reg) (v : Word) : State := s.setReg r (nullWith v)

/-- A special capability register (R80). -/
def State.scr (s : State) : Scr → Cap
  | .mtcc => s.mtcc
  | .mtdc => s.mtdc
  | .mscratchc => s.mscratchc
  | .mepcc => s.mepcc

/-! ## Immediates of the 32-bit forms (R173) -/

/-- `immI` and `immS`. -/
def immI (imm : BitVec 12) : Word := imm.signExtend 32

/-- `immIu`. -/
def immIu (imm : BitVec 12) : Word := imm.setWidth 32

/-- `immB`, from its bits 12:1. -/
def immB (off : BitVec 12) : Word := (off ++ 0#1).signExtend 32

/-- `immU`. -/
def immU (imm : BitVec 20) : Word := imm ++ 0#12

/-- `immUC`. -/
def immUC (imm : BitVec 20) : Word := (imm ++ 0#11).signExtend 32

/-- `immJ`, from its bits 20:1. -/
def immJ (off : BitVec 20) : Word := (off ++ 0#1).signExtend 32

/-- `uimm5`. -/
def uimm5 (u : BitVec 5) : Word := u.setWidth 32

/-- A shift amount as a word, as a register would hold it (R173). -/
def shamtWord (n : BitVec 5) : Word := n.setWidth 32

/-! ## Immediates of the compressed forms -/

/-- `imm6`, sign-extended (46_compressed.md section 3). -/
def imm6 (imm : BitVec 6) : Word := imm.signExtend 32

/-- C.LUI: `imm6` sign-extended to 20 bits (R425). -/
def imm6Upper (imm : BitVec 6) : BitVec 20 := imm.signExtend 20

/-- C.ADDI4SPN, from `nzuimm[9:2]` (R411). -/
def immAddi4spn (u : BitVec 8) : Word := (u ++ 0#2).setWidth 32

/-- C.ADDI16SP, from `nzimm[9:4]` (R424). -/
def immAddi16sp (n : BitVec 6) : Word := (n ++ 0#4).signExtend 32

/-- C.LW and C.SW, from `uimm[6:2]` (R413). -/
def immCW (u : BitVec 5) : Word := (u ++ 0#2).setWidth 32

/-- C.LC and C.SC, from `uimm[7:3]` (R414). -/
def immCC (u : BitVec 5) : Word := (u ++ 0#3).setWidth 32

/-- C.LWSP and C.SWSP, from `uimm[7:2]` (R440, R449). -/
def immWsp (u : BitVec 6) : Word := (u ++ 0#2).setWidth 32

/-- C.LCSP and C.SCSP, from `uimm[8:3]` (R441, R450). -/
def immCsp (u : BitVec 6) : Word := (u ++ 0#3).setWidth 32

/-- C.J and C.JAL, from `off[11:1]` (R422). -/
def immCJ (off : BitVec 11) : Word := (off ++ 0#1).signExtend 32

/-- C.BEQZ and C.BNEZ, from `off[8:1]` (R435). -/
def immCB (off : BitVec 8) : Word := (off ++ 0#1).signExtend 32

end Sys2Proof.Machine
end

