-- ==== Sys2Proof/Machine/Ops.lean ====
section
/-! DEFINITION. The operations the meanings share: moving on, the value of PCC, memory and tag access,
the capability check of loads and stores, taking an exception or an interrupt, and the return. -/

namespace Sys2Proof.Machine

/-! ## Finishing an instruction -/

/-- `pc <- pc + ilen` (R11, R39). -/
def State.advance (s : State) (len : Word) : State := { s with pc := s.pc + len }

/-- The draw counter of the next step (log 7). -/
def State.tick (s : State) : State := { s with draws := s.draws + 1 }

/-- The platform's action between two steps: it drives the pending lines (R470; log 9). -/
def State.setPending (s : State) (lines : Word) : State := { s with mip := lines }

/-- An instruction of length `len` that writes an integer (R33, R220). -/
def finishX (len : Word) (rd : Reg) (v : Word) (s : State) : Result :=
  .next ((s.setX rd v).advance len)

/-- An instruction of length `len` that writes a capability (R376). -/
def finishC (len : Word) (cd : Reg) (v : Cap) (s : State) : Result :=
  .next ((s.setReg cd v).advance len)

/-! ## PCC -/

/-- `PCCval(a)` (R38). -/
def State.pccVal (s : State) (a : Word) : Cap :=
  { s.pcc with a := a, tag := s.pcc.tag && s.pcc.representable a }

/-- The link capability of a jump of length `len` (R284): `PCCval(pc + ilen)` sealed. The check that R38
makes part of `PCCval` passes, so the link is tagged when PCC is (R68), but at `pc + len` = 2^32 with an
exponent below 24, where it clears the tag and so keeps R64 (DEDUCED, log 27). -/
def State.link (s : State) (len : Word) : Cap :=
  (s.pccVal (s.pc + len)).sealWith (linkOtype s.mstatusMie)

/-- SR is in the permissions of PCC (R103). -/
def State.hasSr (s : State) : Bool := s.pcc.has .sr

/-! ## Exceptions (60_exceptions.md) -/

/-- The capability exception codes in use (R462). -/
inductive CheriCause where
  | bounds | tag | seal | ex | ld | sd | mc | sr
deriving DecidableEq, Repr

/-- The code of a capability exception (R462). -/
def CheriCause.code : CheriCause → BitVec 5
  | .bounds => 0x01
  | .tag => 0x02
  | .seal => 0x03
  | .ex => 0x11
  | .ld => 0x12
  | .sd => 0x13
  | .mc => 0x15
  | .sr => 0x18

/-- The register a capability exception names (R462, R464). -/
inductive CheriSource where
  | reg (r : Reg)
  | pcc
  | scr (n : Scr)
deriving DecidableEq, Repr

/-- The bits `S` and `cap idx` (R96, R464). -/
def CheriSource.bits : CheriSource → BitVec 6
  | .reg r => 0#1 ++ r.bits
  | .pcc => 1#1 ++ 0#5
  | .scr n => 1#1 ++ n.bits

/-- The synchronous exceptions that occur (R460). -/
inductive Exc where
  | fetchAccessFault (a : Word)
  | illegal (bits : Word)
  | breakpoint (a : Word)
  | loadMisaligned (a : Word)
  | loadAccessFault (a : Word)
  | storeMisaligned (a : Word)
  | storeAccessFault (a : Word)
  | envCallM
  | cheri (cause : CheriCause) (source : CheriSource)
deriving DecidableEq, Repr

/-- The value of `mcause` (R460). -/
def Exc.code : Exc → Word
  | .fetchAccessFault _ => 1
  | .illegal _ => 2
  | .breakpoint _ => 3
  | .loadMisaligned _ => 4
  | .loadAccessFault _ => 5
  | .storeMisaligned _ => 6
  | .storeAccessFault _ => 7
  | .envCallM => 11
  | .cheri _ _ => 0x1C

/-- The value of `mtval` (R460 to R462). -/
def Exc.value (p : Platform) : Exc → Word
  | .fetchAccessFault a => a
  | .illegal bits =>
    match p.mtvalIllegal with
    | .zero => 0
    | .instructionBits => bits
  | .breakpoint a => a
  | .loadMisaligned a => a
  | .loadAccessFault a => a
  | .storeMisaligned a => a
  | .storeAccessFault a => a
  | .envCallM => 0
  | .cheri cause source => 0#21 ++ source.bits ++ cause.code

/-- The fetch bounds violation, which clears the tag of MEPCC (R481). -/
def Exc.isFetchBounds (e : Exc) : Bool := e == .cheri .bounds .pcc

/-- Trap entry (R480), from the capability that MEPCC receives, the cause and `mtval`. -/
def State.enterTrap (s : State) (epcc : Cap) (cause value : Word) : State :=
  { s with
    mepcc := epcc
    mcause := cause
    mtval := value
    mstatusMpie := s.mstatusMie
    mstatusMie := false
    pcc := s.mtcc
    pc := s.mtcc.a }

/-- What MEPCC receives on an exception (R38, R480 step 1, R481). -/
def State.exceptionPcc (s : State) (e : Exc) : Cap :=
  let c := s.pccVal s.pc
  { c with tag := c.tag && !e.isFetchBounds }

/-- Taking an exception (R480). -/
def State.trap (s : State) (e : Exc) : State :=
  s.enterTrap (s.exceptionPcc e) e.code (e.value s.platform)

/-- `raise` (R13): the instruction ends with the trap and writes nothing else. -/
def raise (e : Exc) (s : State) : Result := .next (s.trap e)

/-- `raise IllegalInstruction` of an instruction that decodes (R245, R340; log 17). -/
def raiseIllegal (i : Instr) (s : State) : Result := raise (.illegal (encode i).bits) s

/-- Return from a trap (R336 steps 2 and 3, R482). -/
def State.trapReturn (s : State) : State :=
  { s with
    mstatusMie := s.mstatusMpie
    mstatusMpie := true
    pcc := s.mepcc
    pc := s.mepcc.a }

/-! ## Interrupts (R470, R471) -/

/-- The bits of `mip` and `mie` of the platform's local interrupts, in priority order. -/
def localBits (p : Platform) : List Nat := p.localIrqs.map fun k => 16 + k.val

/-- The word with the listed bits set. -/
def wordOfBits (l : List Nat) : Word := l.foldl (fun w k => w ||| (1#32 <<< k)) 0

/-- The bits of `mip` and `mie` that exist (R94). -/
def irqMask (p : Platform) : Word := 0x888#32 ||| wordOfBits (localBits p)

/-- The bits of `mip` software may write (R94, R471): local ones only. -/
def mipWriteMask (p : Platform) : Word := p.mipWritable &&& wordOfBits (localBits p)

/-- The interrupts in order of priority: local ones, then external, software, timer (R471). -/
def irqOrder (p : Platform) : List Nat := localBits p ++ [11, 3, 7]

/-- The pending and enabled interrupts. -/
def State.pendingEnabled (s : State) : Word := s.mip &&& s.mie &&& irqMask s.platform

/-- The interrupt to be taken, if any (R470). -/
def State.interrupt (s : State) : Option Nat :=
  if s.mstatusMie then (irqOrder s.platform).find? fun k => s.pendingEnabled.getLsbD k else none

/-- Taking an interrupt (R470, R480; log 13). -/
def State.takeInterrupt (s : State) (code : Nat) : State :=
  s.enterTrap (s.pccVal s.pc) (0x80000000#32 ||| BitVec.ofNat 32 code) 0

/-! ## Memory (20_memory.md) -/

/-- The byte at an address: of memory, or what a device answers (R129; log 8). -/
def State.byteAt (s : State) (why : ReadPurpose) (a : Nat) : Byte :=
  if isDevice s.platform a then Config.deviceByte why a s.draws else s.mem.read a

/-- `MemRead(addr, 2)` (R121). -/
def State.load16 (s : State) (a : Nat) : BitVec 16 := s.byteAt .data (a + 1) ++ s.byteAt .data a

/-- `MemRead(addr, 4)` (R121). -/
def State.load32 (s : State) (a : Nat) : Word := s.load16 (a + 2) ++ s.load16 a

/-- `MemReadCap(addr)` (R133, R134). -/
def State.loadCap (s : State) (a : Nat) : Cap :=
  mkcap (tagged s.platform a && s.tags.read a) (s.load32 (a + 4)) (s.load32 a)

/-- Bytes written from an address upward; bytes of a device change no memory (U24; log 8). -/
def writeBytes (p : Platform) (m : Memory) (a : Nat) : List Byte → Memory
  | [] => m
  | v :: rest => writeBytes p (if isDevice p a then m else m.write a v) (a + 1) rest

/-- The tag of a granule cleared, where it has one (R131). -/
def clearTagAt (p : Platform) (t : TagMemory) (g : Nat) : TagMemory :=
  if tagged p g then t.clear g else t

/-- The tags of the granules of `n` bytes from an address cleared (R131). -/
def clearTags (p : Platform) (t : TagMemory) (a : Nat) : Nat → TagMemory
  | 0 => t
  | n + 1 => clearTags p (clearTagAt p t (granule a)) (a + 1) n

/-- The word `mshwm` (R101). -/
def State.shwmWord (s : State) : Word := s.mshwm ++ 0#4

/-- The word `mshwmb` (R102). -/
def State.shwmbWord (s : State) : Word := s.mshwmb ++ 0#4

/-- `SHWMupdate(addr)` (R145). -/
def State.shwmUpdate (s : State) (addr : Word) : State :=
  { s with mshwm :=
      if s.shwmbWord ≤ addr ∧ addr < s.shwmWord then addr.extractLsb' 4 28 else s.mshwm }

/-- `MemWrite(addr, n, v)`, of the bytes of `v` (R131). -/
def State.memWrite (s : State) (addr : Word) (bytes : List Byte) : State :=
  State.shwmUpdate
    { s with
      mem := writeBytes s.platform s.mem addr.toNat bytes
      unfenced := ⟨addr.toNat, bytes⟩ :: s.unfenced
      tags := clearTags s.platform s.tags addr.toNat bytes.length }
    addr

/-- Some byte of a granule is a device's. -/
def deviceGranule (p : Platform) (g : Nat) : Bool := (List.range 8).any fun i => isDevice p (g + i)

/-- The tag a capability store leaves in tag memory (R134); a device granule keeps none (log 8). -/
def storeTag (p : Platform) (t : TagMemory) (g : Nat) (tag : Bool) : TagMemory :=
  if tagged p g then t.write g (tag && !deviceGranule p g) else t

/-- The eight bytes of a capability in memory, the address word first (R134). -/
def capBytes (v : Cap) : List Byte := wordBytes v.a ++ wordBytes v.high

/-- `MemWriteCap(addr, tag, bits64)` (R134). -/
def State.memWriteCap (s : State) (addr : Word) (tag : Bool) (v : Cap) : State :=
  State.shwmUpdate
    { s with
      mem := writeBytes s.platform s.mem addr.toNat (capBytes v)
      unfenced := ⟨addr.toNat, capBytes v⟩ :: s.unfenced
      tags := storeTag s.platform s.tags addr.toNat tag }
    addr

/-- `Revoked(base)` (R140). -/
def State.revoked (s : State) (base : Nat) : Bool :=
  match revBit s.platform (granule base) with
  | none => false
  | some (a, k) => (s.byteAt .revocation a).getLsbD k

/-! ## The check of loads and stores (R300) -/

/-- The kinds of access that R300 tells apart. -/
inductive AccessKind where
  | loadInt
  | loadCap
  | storeInt
  /-- whether the value stored is tagged -/
  | storeCap (valueTag : Bool)
deriving DecidableEq, Repr

/-- The access is a load. -/
def AccessKind.isLoad : AccessKind → Bool
  | .loadInt => true
  | .loadCap => true
  | .storeInt => false
  | .storeCap _ => false

/-- Step 3a applies: the store of a tagged capability. -/
def AccessKind.needsMc : AccessKind → Bool
  | .storeCap t => t
  | _ => false

/-- The access moves a capability. -/
def AccessKind.isCap : AccessKind → Bool
  | .loadInt => false
  | .loadCap => true
  | .storeInt => false
  | .storeCap _ => true

/-- The alignment exception of step 5 applies (R124, R125). -/
def misaligned (p : Platform) (k : AccessKind) (addr n : Nat) : Bool :=
  if k.isCap then addr % 8 != 0 else !p.misalignedDataOk && addr % n != 0

/-- Every byte of an access lies at a mapped address (R130). -/
def allMapped (p : Platform) (addr n : Nat) : Bool :=
  (List.range n).all fun i => (mapped p (addr + i)).isSome

/-- The address of an access: `(auth.a + imm) mod 2^32` (R300). -/
def State.dataAddr (s : State) (r : Reg) (imm : Word) : Word := s.x r + imm

/-- `CheckAccess(r, kind, n)` (R300): the first exception that applies. -/
def State.checkAccess (s : State) (k : AccessKind) (r : Reg) (imm : Word) (n : Nat) : Option Exc :=
  let auth := s.reg r
  let addr := s.dataAddr r imm
  if !auth.tag then some (.cheri .tag (.reg r))
  else if auth.isSealed then some (.cheri .seal (.reg r))
  else if k.isLoad && !auth.has .ld then some (.cheri .ld (.reg r))
  else if !k.isLoad && !auth.has .sd then some (.cheri .sd (.reg r))
  else if k.needsMc && !auth.has .mc then some (.cheri .mc (.reg r))
  else if !auth.inBounds addr.toNat n then some (.cheri .bounds (.reg r))
  else if misaligned s.platform k addr.toNat n then
    some (if k.isLoad then .loadMisaligned addr else .storeMisaligned addr)
  else if !allMapped s.platform addr.toNat n then
    some (if k.isLoad then .loadAccessFault addr else .storeAccessFault addr)
  else none

end Sys2Proof.Machine
end

