-- ==== Sys2Proof/Machine/Integer.lean ====
section
/-! DEFINITION. Integer computation (40_integer.md sections 2 and 3). -/

namespace Sys2Proof.Machine

/-! ## What the instructions compute -/

/-- A truth value as an integer (R224). -/
def wordOfBool (b : Bool) : Word := if b then 1 else 0

/-- `s(a) < s(b)` (R224). -/
def sltWord (a b : Word) : Word := wordOfBool (a.slt b)

/-- `a < b`, unsigned (R225). -/
def sltuWord (a b : Word) : Word := wordOfBool (a.ult b)

/-- The shift amount in a register: bits 4:0 (R234). -/
def shiftAmount (b : Word) : Nat := (b.extractLsb' 0 5).toNat

/-- R229, R234. -/
def sllWord (a b : Word) : Word := a <<< shiftAmount b

/-- R230, R238. -/
def srlWord (a b : Word) : Word := a >>> shiftAmount b

/-- R231, R239. -/
def sraWord (a b : Word) : Word := a.sshiftRight (shiftAmount b)

/-- A computation on a register and an immediate (R220). -/
def opImm (f : Word → Word → Word) (len : Word) (rd rs1 : Reg) (imm : Word) (s : State) : Result :=
  finishX len rd (f (s.x rs1) imm) s

/-- A computation on two registers (R220). -/
def opReg (f : Word → Word → Word) (len : Word) (rd rs1 rs2 : Reg) (s : State) : Result :=
  finishX len rd (f (s.x rs1) (s.x rs2)) s

/-! ## Immediate forms -/

/-- LUI (R222). -/
def execLui (rd : Reg) (imm : BitVec 20) (s : State) : Result := finishX 4 rd (immU imm) s

/-- ADDI (R223). -/
def execAddi (rd rs1 : Reg) (imm : BitVec 12) (s : State) : Result :=
  opImm (· + ·) 4 rd rs1 (immI imm) s

/-- SLTI (R224). -/
def execSlti (rd rs1 : Reg) (imm : BitVec 12) (s : State) : Result :=
  opImm sltWord 4 rd rs1 (immI imm) s

/-- SLTIU (R225). -/
def execSltiu (rd rs1 : Reg) (imm : BitVec 12) (s : State) : Result :=
  opImm sltuWord 4 rd rs1 (immI imm) s

/-- XORI (R226). -/
def execXori (rd rs1 : Reg) (imm : BitVec 12) (s : State) : Result :=
  opImm (· ^^^ ·) 4 rd rs1 (immI imm) s

/-- ORI (R227). -/
def execOri (rd rs1 : Reg) (imm : BitVec 12) (s : State) : Result :=
  opImm (· ||| ·) 4 rd rs1 (immI imm) s

/-- ANDI (R228). -/
def execAndi (rd rs1 : Reg) (imm : BitVec 12) (s : State) : Result :=
  opImm (· &&& ·) 4 rd rs1 (immI imm) s

/-- SLLI (R229). -/
def execSlli (rd rs1 : Reg) (shamt : BitVec 5) (s : State) : Result :=
  opImm sllWord 4 rd rs1 (shamtWord shamt) s

/-- SRLI (R230). -/
def execSrli (rd rs1 : Reg) (shamt : BitVec 5) (s : State) : Result :=
  opImm srlWord 4 rd rs1 (shamtWord shamt) s

/-- SRAI (R231). -/
def execSrai (rd rs1 : Reg) (shamt : BitVec 5) (s : State) : Result :=
  opImm sraWord 4 rd rs1 (shamtWord shamt) s

/-! ## Register forms -/

/-- ADD (R232). -/
def execAdd (rd rs1 rs2 : Reg) (s : State) : Result := opReg (· + ·) 4 rd rs1 rs2 s

/-- SUB (R233). -/
def execSub (rd rs1 rs2 : Reg) (s : State) : Result := opReg (· - ·) 4 rd rs1 rs2 s

/-- SLL (R234). -/
def execSll (rd rs1 rs2 : Reg) (s : State) : Result := opReg sllWord 4 rd rs1 rs2 s

/-- SLT (R235). -/
def execSlt (rd rs1 rs2 : Reg) (s : State) : Result := opReg sltWord 4 rd rs1 rs2 s

/-- SLTU (R236). -/
def execSltu (rd rs1 rs2 : Reg) (s : State) : Result := opReg sltuWord 4 rd rs1 rs2 s

/-- XOR (R237). -/
def execXor (rd rs1 rs2 : Reg) (s : State) : Result := opReg (· ^^^ ·) 4 rd rs1 rs2 s

/-- SRL (R238). -/
def execSrl (rd rs1 rs2 : Reg) (s : State) : Result := opReg srlWord 4 rd rs1 rs2 s

/-- SRA (R239). -/
def execSra (rd rs1 rs2 : Reg) (s : State) : Result := opReg sraWord 4 rd rs1 rs2 s

/-- OR (R240). -/
def execOr (rd rs1 rs2 : Reg) (s : State) : Result := opReg (· ||| ·) 4 rd rs1 rs2 s

/-- AND (R241). -/
def execAnd (rd rs1 rs2 : Reg) (s : State) : Result := opReg (· &&& ·) 4 rd rs1 rs2 s

end Sys2Proof.Machine
end

