-- ==== Sys2Proof/Machine/CapInspect.lean ====
section
/-! DEFINITION. Capability inspection (45_capability_inspect.md). -/

namespace Sys2Proof.Machine

/-! ## What the instructions compute -/

/-- A number kept to 32 bits from above (R393, R395). -/
def saturate (v : Nat) : Word := if v ≤ 4294967295 then BitVec.ofNat 32 v else 0xFFFFFFFF

/-- CGetLen (R393). A top below the base gives 0, as the difference of naturals does. -/
def capLen (c : Cap) : Word := saturate (c.top - c.base)

/-- CTestSubset (R400). -/
def capSubset (a b : Cap) : Bool :=
  a.tag == b.tag && decide (a.base ≤ b.base ∧ b.top ≤ a.top) && b.perms &&& ~~~a.perms == 0

/-- CRAM (R403). -/
def alignmentMask (l : Word) : Word := 0xFFFFFFFF#32 <<< boundsExp 0 l

/-- CRRL (R402). -/
def roundedLength (l : Word) : Word := (l + ~~~alignmentMask l) &&& alignmentMask l

/-- A query of one register (R390). -/
def opQuery (f : Cap → Word) (rd cs1 : Reg) (s : State) : Result := finishX 4 rd (f (s.reg cs1)) s

/-! ## The instructions -/

/-- CGetPerm (R391). -/
def execCgetperm (rd cs1 : Reg) (s : State) : Result := opQuery (fun c => c.perms.setWidth 32) rd cs1 s

/-- CGetType (R392). -/
def execCgettype (rd cs1 : Reg) (s : State) : Result :=
  opQuery (fun c => c.archotype.setWidth 32) rd cs1 s

/-- CGetBase (R394). -/
def execCgetbase (rd cs1 : Reg) (s : State) : Result :=
  opQuery (fun c => BitVec.ofNat 32 c.base) rd cs1 s

/-- CGetLen (R393). -/
def execCgetlen (rd cs1 : Reg) (s : State) : Result := opQuery capLen rd cs1 s

/-- CGetTop (R395). -/
def execCgettop (rd cs1 : Reg) (s : State) : Result := opQuery (fun c => saturate c.top) rd cs1 s

/-- CGetTag (R396). -/
def execCgettag (rd cs1 : Reg) (s : State) : Result := opQuery (fun c => wordOfBool c.tag) rd cs1 s

/-- CGetAddr (R397). -/
def execCgetaddr (rd cs1 : Reg) (s : State) : Result := opQuery (fun c => c.a) rd cs1 s

/-- CGetHigh (R398). -/
def execCgethigh (rd cs1 : Reg) (s : State) : Result := opQuery (fun c => c.high) rd cs1 s

/-- CSub (R399). -/
def execCsub (rd cs1 cs2 : Reg) (s : State) : Result := opReg (· - ·) 4 rd cs1 cs2 s

/-- CTestSubset (R400). -/
def execCtestsubset (rd cs1 cs2 : Reg) (s : State) : Result :=
  finishX 4 rd (wordOfBool (capSubset (s.reg cs1) (s.reg cs2))) s

/-- CSetEqualExact (R401). -/
def execCsetequalexact (rd cs1 cs2 : Reg) (s : State) : Result :=
  finishX 4 rd (wordOfBool (s.reg cs1 == s.reg cs2)) s

/-- CRRL (R402). -/
def execCrrl (rd rs1 : Reg) (s : State) : Result := finishX 4 rd (roundedLength (s.x rs1)) s

/-- CRAM (R403). -/
def execCram (rd rs1 : Reg) (s : State) : Result := finishX 4 rd (alignmentMask (s.x rs1)) s

end Sys2Proof.Machine
end

