-- ==== Sys2Proof/Machine/CapModify.lean ====
section
/-! DEFINITION. Capability modification (44_capability_modify.md). -/

namespace Sys2Proof.Machine

/-! ## What the instructions compute -/

/-- The set-bounds result; `exactly` asks for exact bounds (R365). -/
def capSetBounds (exactly : Bool) (c : Cap) (l : Word) : Cap :=
  { c.setBounds c.a l with
    tag := c.tag && !c.isSealed && c.inBounds c.a.toNat l.toNat &&
      (!exactly || boundsExact c.a l) }

/-- The tag of a CAndPerm result: a sealed operand loses it, or with `CANDPERM_SEALED_GL_OK` keeps it
when no permission but GL is removed (R369, D18; log 16). -/
def andPermTag (sealedGlOk : Bool) (c r : Cap) : Bool :=
  c.tag && (!c.isSealed || (sealedGlOk && dropPerm (c.perms &&& ~~~r.perms) .gl == 0))

/-- CAndPerm (R369). -/
def capAndPerm (sealedGlOk : Bool) (c : Cap) (mask : Word) : Cap :=
  let r := c.setPerms (c.perms &&& mask.extractLsb' 0 12)
  { r with tag := andPermTag sealedGlOk c r }

/-- `k` may act as a sealing or unsealing authority (R371, R372). -/
def sealAuthority (k : Cap) (q : Perm) : Bool :=
  k.tag && !k.isSealed && k.has q && k.inBounds k.a.toNat 1

/-- CSeal (R371). -/
def capSeal (c k : Cap) : Cap :=
  { c.sealWith (k.a.extractLsb' 0 3) with
    tag := c.tag && !c.isSealed && sealAuthority k .se && c.otypeOk k.a }

/-- GL cleared where the authority lacks it (R372, D41). -/
def localise (k r : Cap) : Cap := if k.has .gl then r else r.setPerms (dropPerm r.perms .gl)

/-- CUnseal (R372). -/
def capUnseal (c k : Cap) : Cap :=
  { localise k c.unseal with
    tag := c.tag && c.isSealed && sealAuthority k .us && k.a == c.archotype.setWidth 32 }

/-- An address change of length `len` (R362, R363). -/
def opIncAddr (len : Word) (cd cs1 : Reg) (d : Word) (s : State) : Result :=
  finishC len cd ((s.reg cs1).withAddr (s.x cs1 + d)) s

/-- A register copy of length `len` (R373). -/
def opMove (len : Word) (cd cs1 : Reg) (s : State) : Result := finishC len cd (s.reg cs1) s

/-! ## The instructions -/

/-- AUIPCC (R360). -/
def execAuipcc (cd : Reg) (imm : BitVec 20) (s : State) : Result :=
  finishC 4 cd (s.pcc.withAddr (s.pc + immUC imm)) s

/-- AUICGP (R361). -/
def execAuicgp (cd : Reg) (imm : BitVec 20) (s : State) : Result :=
  opIncAddr 4 cd .c3 (immUC imm) s

/-- CIncAddr (R362). -/
def execCincaddr (cd cs1 rs2 : Reg) (s : State) : Result := opIncAddr 4 cd cs1 (s.x rs2) s

/-- CIncAddrImm (R363). -/
def execCincaddrimm (cd cs1 : Reg) (imm : BitVec 12) (s : State) : Result :=
  opIncAddr 4 cd cs1 (immI imm) s

/-- CSetAddr (R364). -/
def execCsetaddr (cd cs1 rs2 : Reg) (s : State) : Result :=
  finishC 4 cd ((s.reg cs1).withAddr (s.x rs2)) s

/-- CSetBounds (R366). -/
def execCsetbounds (cd cs1 rs2 : Reg) (s : State) : Result :=
  finishC 4 cd (capSetBounds false (s.reg cs1) (s.x rs2)) s

/-- CSetBoundsExact (R367). -/
def execCsetboundsexact (cd cs1 rs2 : Reg) (s : State) : Result :=
  finishC 4 cd (capSetBounds true (s.reg cs1) (s.x rs2)) s

/-- CSetBoundsImm (R368). -/
def execCsetboundsimm (cd cs1 : Reg) (uimm : BitVec 12) (s : State) : Result :=
  finishC 4 cd (capSetBounds false (s.reg cs1) (immIu uimm)) s

/-- CAndPerm (R369). -/
def execCandperm (cd cs1 rs2 : Reg) (s : State) : Result :=
  finishC 4 cd (capAndPerm s.platform.candpermSealedGlOk (s.reg cs1) (s.x rs2)) s

/-- CSeal (R371). -/
def execCseal (cd cs1 cs2 : Reg) (s : State) : Result :=
  finishC 4 cd (capSeal (s.reg cs1) (s.reg cs2)) s

/-- CUnseal (R372). -/
def execCunseal (cd cs1 cs2 : Reg) (s : State) : Result :=
  finishC 4 cd (capUnseal (s.reg cs1) (s.reg cs2)) s

/-- CMove (R373). -/
def execCmove (cd cs1 : Reg) (s : State) : Result := opMove 4 cd cs1 s

/-- CClearTag (R374). -/
def execCcleartag (cd cs1 : Reg) (s : State) : Result :=
  finishC 4 cd { s.reg cs1 with tag := false } s

/-- CSetHigh (R375). -/
def execCsethigh (cd cs1 rs2 : Reg) (s : State) : Result :=
  finishC 4 cd (mkcap false (s.x rs2) (s.x cs1)) s

end Sys2Proof.Machine
end

