-- ==== Sys2Proof/Machine/Control.lean ====
section
/-! DEFINITION. Jumps, sentries and branches (41_control_transfer.md sections 2 and 3). -/

namespace Sys2Proof.Machine

/-- The otypes a CJALR accepts, by its register numbers (R287). -/
def validOtypes (cs1 cd : Reg) : List (BitVec 4) :=
  if cd = .c1 then [0, 1, 2, 3]
  else if cd = .c0 ∧ cs1 = .c1 then [4, 5]
  else [0, 1]

/-- The check of a CJALR target: the first exception that applies (R286 steps 2 to 4). -/
def State.checkJump (s : State) (cd cs1 : Reg) (imm : Word) : Option Exc :=
  let t := s.reg cs1
  if !t.tag then some (.cheri .tag (.reg cs1))
  else if !(validOtypes cs1 cd).contains t.archotype then some (.cheri .seal (.reg cs1))
  else if t.archotype ≠ 0 ∧ imm ≠ 0 then some (.cheri .seal (.reg cs1))
  else if !t.isExec then some (.cheri .ex (.reg cs1))
  else none

/-- A jump within PCC with a link, of length `len` (R285). -/
def opCjal (len : Word) (cd : Reg) (off : Word) (s : State) : Result :=
  .next { s.setReg cd (s.link len) with pc := s.pc + off }

/-- The state after a CJALR whose target passes the check (R286 steps 5 to 7). -/
def State.jumpTo (s : State) (len : Word) (cd cs1 : Reg) (imm : Word) : State :=
  let t := s.reg cs1
  { s.setReg cd (s.link len) with
    mstatusMie := sentryMie t.archotype s.mstatusMie
    pcc := t.unseal
    pc := (t.a + imm) &&& 0xFFFFFFFE }

/-- A jump through a capability, of length `len` (R286). -/
def opCjalr (len : Word) (cd cs1 : Reg) (imm : Word) (s : State) : Result :=
  match s.checkJump cd cs1 imm with
  | some e => raise e s
  | none => .next (s.jumpTo len cd cs1 imm)

/-- A branch of length `len` (R290). -/
def opBranch (cond : Word → Word → Bool) (len : Word) (rs1 rs2 : Reg) (off : Word) (s : State) :
    Result :=
  if cond (s.x rs1) (s.x rs2) then .next { s with pc := s.pc + off } else .next (s.advance len)

/-- CJAL (R285). -/
def execCjal (cd : Reg) (off : BitVec 20) (s : State) : Result := opCjal 4 cd (immJ off) s

/-- CJALR (R286). -/
def execCjalr (cd cs1 : Reg) (imm : BitVec 12) (s : State) : Result := opCjalr 4 cd cs1 (immI imm) s

/-- BEQ (R291). -/
def execBeq (rs1 rs2 : Reg) (off : BitVec 12) (s : State) : Result :=
  opBranch (fun a b => a == b) 4 rs1 rs2 (immB off) s

/-- BNE (R292). -/
def execBne (rs1 rs2 : Reg) (off : BitVec 12) (s : State) : Result :=
  opBranch (fun a b => a != b) 4 rs1 rs2 (immB off) s

/-- BLT (R293). -/
def execBlt (rs1 rs2 : Reg) (off : BitVec 12) (s : State) : Result :=
  opBranch (fun a b => a.slt b) 4 rs1 rs2 (immB off) s

/-- BGE (R294). -/
def execBge (rs1 rs2 : Reg) (off : BitVec 12) (s : State) : Result :=
  opBranch (fun a b => !a.slt b) 4 rs1 rs2 (immB off) s

/-- BLTU (R295). -/
def execBltu (rs1 rs2 : Reg) (off : BitVec 12) (s : State) : Result :=
  opBranch (fun a b => a.ult b) 4 rs1 rs2 (immB off) s

/-- BGEU (R296). -/
def execBgeu (rs1 rs2 : Reg) (off : BitVec 12) (s : State) : Result :=
  opBranch (fun a b => !a.ult b) 4 rs1 rs2 (immB off) s

end Sys2Proof.Machine
end

