-- ==== Sys2Proof/Machine/LoadStore.lean ====
section
/-! DEFINITION. Loads and stores (42_loads_stores.md). -/

namespace Sys2Proof.Machine

/-- How an integer load reads and extends (R301 to R305). -/
inductive LoadKind where
  | byte | half | word | byteU | halfU
deriving DecidableEq, Repr

/-- The bytes an integer load reads (R127). -/
def LoadKind.size : LoadKind → Nat
  | .byte => 1
  | .half => 2
  | .word => 4
  | .byteU => 1
  | .halfU => 2

/-- The integer a load delivers (R301 to R305). -/
def State.loadValue (s : State) (k : LoadKind) (a : Nat) : Word :=
  match k with
  | .byte => (s.byteAt .data a).signExtend 32
  | .half => (s.load16 a).signExtend 32
  | .word => s.load32 a
  | .byteU => (s.byteAt .data a).setWidth 32
  | .halfU => (s.load16 a).setWidth 32

/-- An integer load of length `len`. -/
def opLoad (k : LoadKind) (len : Word) (rd cs1 : Reg) (imm : Word) (s : State) : Result :=
  match s.checkAccess .loadInt cs1 imm k.size with
  | some e => raise e s
  | none => finishX len rd (s.loadValue k (s.dataAddr cs1 imm).toNat) s

/-- An integer store of `n` bytes, of length `len`. -/
def opStore (n : Nat) (len : Word) (rs2 cs1 : Reg) (imm : Word) (s : State) : Result :=
  match s.checkAccess .storeInt cs1 imm n with
  | some e => raise e s
  | none =>
    .next ((s.memWrite (s.dataAddr cs1 imm) ((wordBytes (s.x rs2)).take n)).advance len)

/-- The permissions a tagged capability keeps when it is loaded (R310 step 5). -/
def loadedPerms (auth v : Cap) : BitVec 12 :=
  let m := v.perms
  let m := if auth.has .lg then m
    else if v.isSealed then dropPerm m .gl
    else dropPerm (dropPerm m .gl) .lg
  if auth.has .lm || v.isSealed then m else dropPerm (dropPerm m .sd) .lm

/-- What CLC makes of the capability in memory (R310 steps 4 and 5). -/
def State.loadedCap (s : State) (auth v : Cap) : Cap :=
  if v.tag && auth.has .mc then
    { v.setPerms (loadedPerms auth v) with tag := !s.revoked v.base }
  else { v with tag := false }

/-- A capability load of length `len` (R310). -/
def opLoadCap (len : Word) (cd cs1 : Reg) (imm : Word) (s : State) : Result :=
  match s.checkAccess .loadCap cs1 imm 8 with
  | some e => raise e s
  | none => finishC len cd (s.loadedCap (s.reg cs1) (s.loadCap (s.dataAddr cs1 imm).toNat)) s

/-- The capability is a backward sentry (R311 step 4). -/
def Cap.isBackwardSentry (c : Cap) : Bool := c.archotype == 4 || c.archotype == 5

/-- The tag CSC stores (R311 step 4). -/
def storedTag (auth v : Cap) : Bool :=
  v.tag && (auth.has .sl || (v.has .gl && !v.isBackwardSentry))

/-- A capability store of length `len` (R311). -/
def opStoreCap (len : Word) (cs2 cs1 : Reg) (imm : Word) (s : State) : Result :=
  match s.checkAccess (.storeCap (s.reg cs2).tag) cs1 imm 8 with
  | some e => raise e s
  | none =>
    .next ((s.memWriteCap (s.dataAddr cs1 imm) (storedTag (s.reg cs1) (s.reg cs2))
      (s.reg cs2)).advance len)

/-- CLB (R301). -/
def execClb (rd cs1 : Reg) (imm : BitVec 12) (s : State) : Result :=
  opLoad .byte 4 rd cs1 (immI imm) s

/-- CLH (R302). -/
def execClh (rd cs1 : Reg) (imm : BitVec 12) (s : State) : Result :=
  opLoad .half 4 rd cs1 (immI imm) s

/-- CLW (R303). -/
def execClw (rd cs1 : Reg) (imm : BitVec 12) (s : State) : Result :=
  opLoad .word 4 rd cs1 (immI imm) s

/-- CLBU (R304). -/
def execClbu (rd cs1 : Reg) (imm : BitVec 12) (s : State) : Result :=
  opLoad .byteU 4 rd cs1 (immI imm) s

/-- CLHU (R305). -/
def execClhu (rd cs1 : Reg) (imm : BitVec 12) (s : State) : Result :=
  opLoad .halfU 4 rd cs1 (immI imm) s

/-- CLC (R310). -/
def execClc (cd cs1 : Reg) (imm : BitVec 12) (s : State) : Result :=
  opLoadCap 4 cd cs1 (immI imm) s

/-- CSB (R306). -/
def execCsb (rs2 cs1 : Reg) (imm : BitVec 12) (s : State) : Result :=
  opStore 1 4 rs2 cs1 (immI imm) s

/-- CSH (R307). -/
def execCsh (rs2 cs1 : Reg) (imm : BitVec 12) (s : State) : Result :=
  opStore 2 4 rs2 cs1 (immI imm) s

/-- CSW (R308). -/
def execCsw (rs2 cs1 : Reg) (imm : BitVec 12) (s : State) : Result :=
  opStore 4 4 rs2 cs1 (immI imm) s

/-- CSC (R311). -/
def execCsc (cs2 cs1 : Reg) (imm : BitVec 12) (s : State) : Result :=
  opStoreCap 4 cs2 cs1 (immI imm) s

end Sys2Proof.Machine
end

