-- ==== Sys2Proof/Machine/System.lean ====
section
/-! DEFINITION. Fences, traps on request, WFI, MRET and the special capability registers
(43_system.md sections 1, 2 and 4). -/

namespace Sys2Proof.Machine

/-- An instruction of length `len` with no effect but to move on (R330, R334). -/
def opNone (len : Word) (s : State) : Result := .next (s.advance len)

/-- The breakpoint exception, at the address of the instruction (R333). -/
def opBreakpoint (s : State) : Result := raise (.breakpoint s.pc) s

/-- `legal_mtcc` (R82). -/
def legalMtcc (v : Cap) : Cap :=
  { v with
    a := v.a &&& 0xFFFFFFFC
    tag := v.tag && v.a.extractLsb' 0 2 == 0#2 && !v.isSealed && v.isExec }

/-- `legal_mepcc` (R83). -/
def legalMepcc (v : Cap) : Cap :=
  { v with
    a := v.a &&& 0xFFFFFFFE
    tag := v.tag && v.a.extractLsb' 0 1 == 0#1 && !v.isSealed && v.isExec }

/-- A special capability register written (R348 step 5). -/
def State.setScr (s : State) (n : Scr) (v : Cap) : State :=
  match n with
  | .mtcc => { s with mtcc := legalMtcc v }
  | .mtdc => { s with mtdc := v }
  | .mscratchc => { s with mscratchc := v }
  | .mepcc => { s with mepcc := legalMepcc v }

/-- Steps 4 to 6 of R348. -/
def State.swapScr (s : State) (cd : Reg) (n : Scr) (cs1 : Reg) : State :=
  let old := s.scr n
  let s1 := if cs1 = .c0 then s else s.setScr n (s.reg cs1)
  (s1.setReg cd old).advance 4

/-- FENCE: no effect on one hart with memory in program order (R330, R151). -/
def execFence (_fm _pred _succ : BitVec 4) (_rs1 _rd : BitVec 5) (s : State) : Result := opNone 4 s

/-- FENCE.I: fetches see every store before it (R331, R152). -/
def execFencei (_imm : BitVec 12) (_rs1 _rd : BitVec 5) (s : State) : Result :=
  .next ({ s with codeMem := s.mem, unfenced := [] }.advance 4)

/-- ECALL (R332). -/
def execEcall (s : State) : Result := raise .envCallM s

/-- EBREAK (R333). -/
def execEbreak (s : State) : Result := opBreakpoint s

/-- WFI (R334). -/
def execWfi (s : State) : Result := opNone 4 s

/-- MRET (R336). -/
def execMret (s : State) : Result :=
  if s.hasSr then .next s.trapReturn else raise (.cheri .sr .pcc) s

/-- CSpecialRW (R348). -/
def execCspecialrw (cd : Reg) (n : Scr) (cs1 : Reg) (s : State) : Result :=
  if s.hasSr then .next (s.swapScr cd n cs1) else raise (.cheri .sr (.scr n)) s

end Sys2Proof.Machine
end

