-- ==== Sys2Proof/Machine/Compressed.lean ====
section
/-! DEFINITION. The compressed instructions (46_compressed.md): the operation of the expansion with
instruction length 2 (R410). -/

namespace Sys2Proof.Machine

/-- C.ADDI4SPN (R411): CIncAddrImm. -/
def execRvcAddi4spn (cd : CReg) (nzuimm : BitVec 8) (s : State) : Result :=
  opIncAddr 2 cd.reg .c2 (immAddi4spn nzuimm) s

/-- C.LW (R413): CLW. -/
def execRvcLw (rd cs1 : CReg) (uimm : BitVec 5) (s : State) : Result :=
  opLoad .word 2 rd.reg cs1.reg (immCW uimm) s

/-- C.LC (R414): CLC. -/
def execRvcLc (cd cs1 : CReg) (uimm : BitVec 5) (s : State) : Result :=
  opLoadCap 2 cd.reg cs1.reg (immCC uimm) s

/-- C.SW (R417): CSW. -/
def execRvcSw (rs2 cs1 : CReg) (uimm : BitVec 5) (s : State) : Result :=
  opStore 4 2 rs2.reg cs1.reg (immCW uimm) s

/-- C.SC (R418): CSC. -/
def execRvcSc (cs2 cs1 : CReg) (uimm : BitVec 5) (s : State) : Result :=
  opStoreCap 2 cs2.reg cs1.reg (immCC uimm) s

/-- C.NOP (R420): ADDI of c0. -/
def execRvcNop (imm : BitVec 6) (s : State) : Result := opImm (· + ·) 2 .c0 .c0 (imm6 imm) s

/-- C.ADDI (R421): ADDI. -/
def execRvcAddi (rd : Reg) (imm : BitVec 6) (s : State) : Result :=
  opImm (· + ·) 2 rd rd (imm6 imm) s

/-- C.JAL (R422): CJAL of c1. -/
def execRvcJal (off : BitVec 11) (s : State) : Result := opCjal 2 .c1 (immCJ off) s

/-- C.LI (R423): ADDI from c0. -/
def execRvcLi (rd : Reg) (imm : BitVec 6) (s : State) : Result := opImm (· + ·) 2 rd .c0 (imm6 imm) s

/-- C.ADDI16SP (R424): CIncAddrImm of c2. -/
def execRvcAddi16sp (nzimm : BitVec 6) (s : State) : Result :=
  opIncAddr 2 .c2 .c2 (immAddi16sp nzimm) s

/-- C.LUI (R425): LUI. -/
def execRvcLui (rd : Reg) (imm : BitVec 6) (s : State) : Result :=
  finishX 2 rd (immU (imm6Upper imm)) s

/-- C.SRLI (R426): SRLI. -/
def execRvcSrli (rd : CReg) (shamt : BitVec 5) (s : State) : Result :=
  opImm srlWord 2 rd.reg rd.reg (shamtWord shamt) s

/-- C.SRAI (R427): SRAI. -/
def execRvcSrai (rd : CReg) (shamt : BitVec 5) (s : State) : Result :=
  opImm sraWord 2 rd.reg rd.reg (shamtWord shamt) s

/-- C.ANDI (R428): ANDI. -/
def execRvcAndi (rd : CReg) (imm : BitVec 6) (s : State) : Result :=
  opImm (· &&& ·) 2 rd.reg rd.reg (imm6 imm) s

/-- C.SUB (R429): SUB. -/
def execRvcSub (rd rs2 : CReg) (s : State) : Result := opReg (· - ·) 2 rd.reg rd.reg rs2.reg s

/-- C.XOR (R430): XOR. -/
def execRvcXor (rd rs2 : CReg) (s : State) : Result := opReg (· ^^^ ·) 2 rd.reg rd.reg rs2.reg s

/-- C.OR (R431): OR. -/
def execRvcOr (rd rs2 : CReg) (s : State) : Result := opReg (· ||| ·) 2 rd.reg rd.reg rs2.reg s

/-- C.AND (R432): AND. -/
def execRvcAnd (rd rs2 : CReg) (s : State) : Result := opReg (· &&& ·) 2 rd.reg rd.reg rs2.reg s

/-- C.J (R434): CJAL of c0. -/
def execRvcJ (off : BitVec 11) (s : State) : Result := opCjal 2 .c0 (immCJ off) s

/-- C.BEQZ (R435): BEQ with c0. -/
def execRvcBeqz (rs1 : CReg) (off : BitVec 8) (s : State) : Result :=
  opBranch (fun a b => a == b) 2 rs1.reg .c0 (immCB off) s

/-- C.BNEZ (R436): BNE with c0. -/
def execRvcBnez (rs1 : CReg) (off : BitVec 8) (s : State) : Result :=
  opBranch (fun a b => a != b) 2 rs1.reg .c0 (immCB off) s

/-- C.SLLI (R438): SLLI. -/
def execRvcSlli (rd : Reg) (shamt : BitVec 5) (s : State) : Result :=
  opImm sllWord 2 rd rd (shamtWord shamt) s

/-- C.LWSP (R440): CLW through c2. -/
def execRvcLwsp (rd : Reg) (uimm : BitVec 6) (s : State) : Result :=
  opLoad .word 2 rd .c2 (immWsp uimm) s

/-- C.LCSP (R441): CLC through c2. -/
def execRvcLcsp (cd : Reg) (uimm : BitVec 6) (s : State) : Result :=
  opLoadCap 2 cd .c2 (immCsp uimm) s

/-- C.JR (R442): CJALR of c0. -/
def execRvcJr (cs1 : Reg) (s : State) : Result := opCjalr 2 .c0 cs1 0 s

/-- C.MV (R444): CMove. -/
def execRvcMv (cd cs2 : Reg) (s : State) : Result := opMove 2 cd cs2 s

/-- C.EBREAK (R445): EBREAK. -/
def execRvcEbreak (s : State) : Result := opBreakpoint s

/-- C.JALR (R446): CJALR of c1. -/
def execRvcJalr (cs1 : Reg) (s : State) : Result := opCjalr 2 .c1 cs1 0 s

/-- C.ADD (R447): ADD. -/
def execRvcAdd (rd rs2 : Reg) (s : State) : Result := opReg (· + ·) 2 rd rd rs2 s

/-- C.SWSP (R449): CSW through c2. -/
def execRvcSwsp (rs2 : Reg) (uimm : BitVec 6) (s : State) : Result :=
  opStore 4 2 rs2 .c2 (immWsp uimm) s

/-- C.SCSP (R450): CSC through c2. -/
def execRvcScsp (cs2 : Reg) (uimm : BitVec 6) (s : State) : Result :=
  opStoreCap 2 cs2 .c2 (immCsp uimm) s

end Sys2Proof.Machine
end

