-- ==== Sys2Proof/Machine/Csr.lean ====
section
/-! DEFINITION. The control and status registers and the common procedure of the six CSR instructions
(10_state.md section 5, 43_system.md section 3). -/

namespace Sys2Proof.Machine

/-- The registers of R91; `half` is true for the h register of a counter. -/
inductive Csr where
  | mstatus | misa | mie | mscratch | mcause | mtval | mip
  | mcycle (half : Bool)
  | minstret (half : Bool)
  | mshwm | mshwmb
  | cycle (half : Bool)
  | time (half : Bool)
  | instret (half : Bool)
  | hpmcounter (n : Fin 29) (half : Bool)
  | mvendorid | marchid | mimpid | mhartid
deriving DecidableEq, Repr

/-- `hpmcounter<n + 3>` of a platform, where it is one of the `NUM_HPM` that exist (R91, R99). -/
def hpmCsr (p : Platform) (n : Nat) (half : Bool) : Option Csr :=
  if h : n < 29 then (if n < p.numHpm.val then some (.hpmcounter ⟨n, h⟩ half) else none) else none

/-- The register at a CSR address (R91). Addresses 0x305 and 0x341 name none (R85). -/
def csrAt (p : Platform) (addr : BitVec 12) : Option Csr :=
  if addr = 0x300#12 then some .mstatus
  else if addr = 0x301#12 then some .misa
  else if addr = 0x304#12 then some .mie
  else if addr = 0x340#12 then some .mscratch
  else if addr = 0x342#12 then some .mcause
  else if addr = 0x343#12 then some .mtval
  else if addr = 0x344#12 then some .mip
  else if addr = 0xB00#12 then some (.mcycle false)
  else if addr = 0xB80#12 then some (.mcycle true)
  else if addr = 0xB02#12 then some (.minstret false)
  else if addr = 0xB82#12 then some (.minstret true)
  else if addr = 0xBC1#12 then some .mshwm
  else if addr = 0xBC2#12 then some .mshwmb
  else if addr = 0xC00#12 then some (.cycle false)
  else if addr = 0xC80#12 then some (.cycle true)
  else if addr = 0xC01#12 then some (.time false)
  else if addr = 0xC81#12 then some (.time true)
  else if addr = 0xC02#12 then some (.instret false)
  else if addr = 0xC82#12 then some (.instret true)
  else if 0xC03 ≤ addr.toNat ∧ addr.toNat ≤ 0xC1F then hpmCsr p (addr.toNat - 0xC03) false
  else if 0xC83 ≤ addr.toNat ∧ addr.toNat ≤ 0xC9F then hpmCsr p (addr.toNat - 0xC83) true
  else if addr = 0xF11#12 then some .mvendorid
  else if addr = 0xF12#12 then some .marchid
  else if addr = 0xF13#12 then some .mimpid
  else if addr = 0xF14#12 then some .mhartid
  else none

/-- The CSRs on the allowlist, which may be read without SR (R103). -/
def Csr.onAllowlist : Csr → Bool
  | .cycle _ => true
  | .time _ => true
  | .instret _ => true
  | .hpmcounter _ _ => true
  | .mstatus | .misa | .mie | .mscratch | .mcause | .mtval | .mip | .mcycle _ | .minstret _
  | .mshwm | .mshwmb | .mvendorid | .marchid | .mimpid | .mhartid => false

/-- `mshwm` and `mshwmb`, whose refusal without SR is a parameter (R340 step 3). -/
def Csr.isShwm : Csr → Bool
  | .mshwm => true
  | .mshwmb => true
  | .mstatus | .misa | .mie | .mscratch | .mcause | .mtval | .mip | .mcycle _ | .minstret _
  | .cycle _ | .time _ | .instret _ | .hpmcounter _ _
  | .mvendorid | .marchid | .mimpid | .mhartid => false

/-- A half of a 64-bit counter (R99). -/
def halfOf (half : Bool) (v : BitVec 64) : Word :=
  if half then v.extractLsb' 32 32 else v.extractLsb' 0 32

/-- A 64-bit counter with one half written (R99). -/
def withHalf (half : Bool) (v : BitVec 64) (w : Word) : BitVec 64 :=
  if half then w ++ v.extractLsb' 0 32 else v.extractLsb' 32 32 ++ w

/-- The constant `misa` (R93). -/
def misaWord (p : Platform) : Word := if p.hasM then 0x40801014 else 0x40800014

/-- The values of `mcause` this machine can raise (R460, R470, R471). -/
def supportedCause (p : Platform) (v : Word) : Bool :=
  [1, 2, 3, 4, 5, 6, 7, 11, 0x1C].contains v ||
    (irqOrder p).any fun k => v == 0x80000000#32 ||| BitVec.ofNat 32 k

/-- What `mcause` reads as (R95, U12; log 12). -/
def State.mcauseValue (s : State) : Word :=
  if supportedCause s.platform s.mcause then s.mcause else Config.mcauseRead s.mcause s.draws

/-- What a counter reads as: a draw (R99, D25; log 3). -/
def State.counterValue (s : State) (k : Counter) (half : Bool) (held : BitVec 64) : Word :=
  halfOf half (Config.counterRead k held s.draws)

/-- The value read from a CSR (R92 to R102). -/
def State.readCsr (s : State) : Csr → Word
  | .mstatus => mstatusWord s.mstatusMie s.mstatusMpie
  | .misa => misaWord s.platform
  | .mie => s.mie &&& irqMask s.platform
  | .mscratch => s.mscratch
  | .mcause => s.mcauseValue
  | .mtval => s.mtval
  | .mip => s.mip &&& irqMask s.platform
  | .mcycle h => s.counterValue .cycle h s.mcycle
  | .minstret h => s.counterValue .instret h s.minstret
  | .mshwm => s.shwmWord
  | .mshwmb => s.shwmbWord
  | .cycle h => s.counterValue .cycle h s.mcycle
  | .time h => s.counterValue .time h s.time
  | .instret h => s.counterValue .instret h s.minstret
  | .hpmcounter n h => s.counterValue (.hpm n) h (s.hpm.getD n.val 0)
  | .mvendorid => s.platform.mvendorid
  | .marchid => s.platform.marchid
  | .mimpid => s.platform.mimpid
  | .mhartid => s.platform.mhartid

/-- A CSR written, with the legalisation of R340 step 5. -/
def State.writeCsr (s : State) (c : Csr) (v : Word) : State :=
  match c with
  | .mstatus => { s with mstatusMie := v.getLsbD 3, mstatusMpie := v.getLsbD 7 }
  | .misa => s
  | .mie => { s with mie := v &&& irqMask s.platform }
  | .mscratch => { s with mscratch := v }
  | .mcause => { s with mcause := v }
  | .mtval => { s with mtval := v }
  | .mip =>
    { s with mip := (s.mip &&& ~~~mipWriteMask s.platform) ||| (v &&& mipWriteMask s.platform) }
  | .mcycle h => { s with mcycle := withHalf h s.mcycle v }
  | .minstret h => { s with minstret := withHalf h s.minstret v }
  | .mshwm => { s with mshwm := v.extractLsb' 4 28 }
  | .mshwmb => { s with mshwmb := v.extractLsb' 4 28 }
  | .cycle _ => s
  | .time _ => s
  | .instret _ => s
  | .hpmcounter _ _ => s
  | .mvendorid => s
  | .marchid => s
  | .mimpid => s
  | .mhartid => s

/-- The address marks a read-only register (R90). -/
def csrReadOnly (addr : BitVec 12) : Bool := addr.extractLsb' 10 2 == 3#2

/-- Steps 2 and 3 of R340: the first exception that applies. -/
def State.checkCsr (s : State) (i : Instr) (addr : BitVec 12) (writes : Bool) : Option Exc :=
  match csrAt s.platform addr with
  | none => some (.illegal (encode i).bits)
  | some c =>
    if writes && csrReadOnly addr then some (.illegal (encode i).bits)
    else if s.hasSr || (c.onAllowlist && !writes) then none
    else if c.isShwm && s.platform.shwmNoAsrCause == .illegal then
      some (.illegal (encode i).bits)
    else some (.cheri .sr .pcc)

/-- Steps 4 to 6 of R340: the state after an access that passes the check. -/
def State.accessCsr (s : State) (addr : BitVec 12) (rd : Reg) (writes : Bool) (f : Word → Word) :
    State :=
  match csrAt s.platform addr with
  | none => s
  | some c =>
    let old := s.readCsr c
    let s1 := if writes then s.writeCsr c (f old) else s
    (s1.setX rd old).advance 4

/-- The common procedure of the CSR instructions; `f` gives `new` from `old` (R340). -/
def opCsr (i : Instr) (addr : BitVec 12) (rd : Reg) (writes : Bool) (f : Word → Word) (s : State) :
    Result :=
  match s.checkCsr i addr writes with
  | some e => raise e s
  | none => .next (s.accessCsr addr rd writes f)

/-- CSRRW (R341). -/
def execCsrrw (rd : Reg) (csr : BitVec 12) (rs1 : Reg) (s : State) : Result :=
  opCsr (.csrrw rd csr rs1) csr rd true (fun _ => s.x rs1) s

/-- CSRRS (R342). -/
def execCsrrs (rd : Reg) (csr : BitVec 12) (rs1 : Reg) (s : State) : Result :=
  opCsr (.csrrs rd csr rs1) csr rd (rs1 != .c0) (fun old => old ||| s.x rs1) s

/-- CSRRC (R343). -/
def execCsrrc (rd : Reg) (csr : BitVec 12) (rs1 : Reg) (s : State) : Result :=
  opCsr (.csrrc rd csr rs1) csr rd (rs1 != .c0) (fun old => old &&& ~~~s.x rs1) s

/-- CSRRWI (R344). -/
def execCsrrwi (rd : Reg) (csr : BitVec 12) (uimm : BitVec 5) (s : State) : Result :=
  opCsr (.csrrwi rd csr uimm) csr rd true (fun _ => uimm5 uimm) s

/-- CSRRSI (R345). -/
def execCsrrsi (rd : Reg) (csr : BitVec 12) (uimm : BitVec 5) (s : State) : Result :=
  opCsr (.csrrsi rd csr uimm) csr rd (uimm != 0) (fun old => old ||| uimm5 uimm) s

/-- CSRRCI (R346). -/
def execCsrrci (rd : Reg) (csr : BitVec 12) (uimm : BitVec 5) (s : State) : Result :=
  opCsr (.csrrci rd csr uimm) csr rd (uimm != 0) (fun old => old &&& ~~~uimm5 uimm) s

end Sys2Proof.Machine
end

