-- ==== Sys2Proof/Machine/MulDiv.lean ====
section
/-! DEFINITION. Multiply and divide (40_integer.md section 4). -/

namespace Sys2Proof.Machine

/-- Bits 63:32 of an exact product (R247). -/
def highWord (v : Int) : Word := BitVec.ofInt 32 (v / 4294967296)

/-- R246. -/
def mulWord (a b : Word) : Word := a * b

/-- R247. -/
def mulhWord (a b : Word) : Word := highWord (a.toInt * b.toInt)

/-- R248. -/
def mulhsuWord (a b : Word) : Word := highWord (a.toInt * (b.toNat : Int))

/-- R249. -/
def mulhuWord (a b : Word) : Word := highWord ((a.toNat : Int) * (b.toNat : Int))

/-- Signed division rounding toward zero, with its corners (R250). -/
def divWord (a b : Word) : Word := if b = 0 then 0xFFFFFFFF else BitVec.ofInt 32 (a.toInt.tdiv b.toInt)

/-- R251. -/
def divuWord (a b : Word) : Word := if b = 0 then 0xFFFFFFFF else BitVec.ofNat 32 (a.toNat / b.toNat)

/-- Signed remainder with the sign of the dividend (R252). -/
def remWord (a b : Word) : Word := if b = 0 then a else BitVec.ofInt 32 (a.toInt.tmod b.toInt)

/-- R253. -/
def remuWord (a b : Word) : Word := if b = 0 then a else BitVec.ofNat 32 (a.toNat % b.toNat)

/-- An instruction of the M extension: illegal without it (R245). -/
def opM (i : Instr) (f : Word → Word → Word) (rd rs1 rs2 : Reg) (s : State) : Result :=
  if s.platform.hasM then opReg f 4 rd rs1 rs2 s else raiseIllegal i s

/-- MUL (R246). -/
def execMul (rd rs1 rs2 : Reg) (s : State) : Result := opM (.mul rd rs1 rs2) mulWord rd rs1 rs2 s

/-- MULH (R247). -/
def execMulh (rd rs1 rs2 : Reg) (s : State) : Result := opM (.mulh rd rs1 rs2) mulhWord rd rs1 rs2 s

/-- MULHSU (R248). -/
def execMulhsu (rd rs1 rs2 : Reg) (s : State) : Result :=
  opM (.mulhsu rd rs1 rs2) mulhsuWord rd rs1 rs2 s

/-- MULHU (R249). -/
def execMulhu (rd rs1 rs2 : Reg) (s : State) : Result :=
  opM (.mulhu rd rs1 rs2) mulhuWord rd rs1 rs2 s

/-- DIV (R250). -/
def execDiv (rd rs1 rs2 : Reg) (s : State) : Result := opM (.div rd rs1 rs2) divWord rd rs1 rs2 s

/-- DIVU (R251). -/
def execDivu (rd rs1 rs2 : Reg) (s : State) : Result := opM (.divu rd rs1 rs2) divuWord rd rs1 rs2 s

/-- REM (R252). -/
def execRem (rd rs1 rs2 : Reg) (s : State) : Result := opM (.rem rd rs1 rs2) remWord rd rs1 rs2 s

/-- REMU (R253). -/
def execRemu (rd rs1 rs2 : Reg) (s : State) : Result := opM (.remu rd rs1 rs2) remuWord rd rs1 rs2 s

end Sys2Proof.Machine
end

