-- ==== Sys2Proof/Machine/Dispatch.lean ====
section
/-! DEFINITION. Dispatch: one arm per instruction, each one call of its meaning. -/

namespace Sys2Proof.Machine

def exec (i : Instr) (s : State) : Host.Outcome State Fault Refusal :=
  match i with
  | .lui rd imm => Sys2Proof.Machine.execLui rd imm s
  | .addi rd rs1 imm => Sys2Proof.Machine.execAddi rd rs1 imm s
  | .slti rd rs1 imm => Sys2Proof.Machine.execSlti rd rs1 imm s
  | .sltiu rd rs1 imm => Sys2Proof.Machine.execSltiu rd rs1 imm s
  | .xori rd rs1 imm => Sys2Proof.Machine.execXori rd rs1 imm s
  | .ori rd rs1 imm => Sys2Proof.Machine.execOri rd rs1 imm s
  | .andi rd rs1 imm => Sys2Proof.Machine.execAndi rd rs1 imm s
  | .slli rd rs1 shamt => Sys2Proof.Machine.execSlli rd rs1 shamt s
  | .srli rd rs1 shamt => Sys2Proof.Machine.execSrli rd rs1 shamt s
  | .srai rd rs1 shamt => Sys2Proof.Machine.execSrai rd rs1 shamt s
  | .add rd rs1 rs2 => Sys2Proof.Machine.execAdd rd rs1 rs2 s
  | .sub rd rs1 rs2 => Sys2Proof.Machine.execSub rd rs1 rs2 s
  | .sll rd rs1 rs2 => Sys2Proof.Machine.execSll rd rs1 rs2 s
  | .slt rd rs1 rs2 => Sys2Proof.Machine.execSlt rd rs1 rs2 s
  | .sltu rd rs1 rs2 => Sys2Proof.Machine.execSltu rd rs1 rs2 s
  | .xor rd rs1 rs2 => Sys2Proof.Machine.execXor rd rs1 rs2 s
  | .srl rd rs1 rs2 => Sys2Proof.Machine.execSrl rd rs1 rs2 s
  | .sra rd rs1 rs2 => Sys2Proof.Machine.execSra rd rs1 rs2 s
  | .or rd rs1 rs2 => Sys2Proof.Machine.execOr rd rs1 rs2 s
  | .and rd rs1 rs2 => Sys2Proof.Machine.execAnd rd rs1 rs2 s
  | .mul rd rs1 rs2 => Sys2Proof.Machine.execMul rd rs1 rs2 s
  | .mulh rd rs1 rs2 => Sys2Proof.Machine.execMulh rd rs1 rs2 s
  | .mulhsu rd rs1 rs2 => Sys2Proof.Machine.execMulhsu rd rs1 rs2 s
  | .mulhu rd rs1 rs2 => Sys2Proof.Machine.execMulhu rd rs1 rs2 s
  | .div rd rs1 rs2 => Sys2Proof.Machine.execDiv rd rs1 rs2 s
  | .divu rd rs1 rs2 => Sys2Proof.Machine.execDivu rd rs1 rs2 s
  | .rem rd rs1 rs2 => Sys2Proof.Machine.execRem rd rs1 rs2 s
  | .remu rd rs1 rs2 => Sys2Proof.Machine.execRemu rd rs1 rs2 s
  | .cjal cd off => Sys2Proof.Machine.execCjal cd off s
  | .cjalr cd cs1 imm => Sys2Proof.Machine.execCjalr cd cs1 imm s
  | .beq rs1 rs2 off => Sys2Proof.Machine.execBeq rs1 rs2 off s
  | .bne rs1 rs2 off => Sys2Proof.Machine.execBne rs1 rs2 off s
  | .blt rs1 rs2 off => Sys2Proof.Machine.execBlt rs1 rs2 off s
  | .bge rs1 rs2 off => Sys2Proof.Machine.execBge rs1 rs2 off s
  | .bltu rs1 rs2 off => Sys2Proof.Machine.execBltu rs1 rs2 off s
  | .bgeu rs1 rs2 off => Sys2Proof.Machine.execBgeu rs1 rs2 off s
  | .clb rd cs1 imm => Sys2Proof.Machine.execClb rd cs1 imm s
  | .clh rd cs1 imm => Sys2Proof.Machine.execClh rd cs1 imm s
  | .clw rd cs1 imm => Sys2Proof.Machine.execClw rd cs1 imm s
  | .clbu rd cs1 imm => Sys2Proof.Machine.execClbu rd cs1 imm s
  | .clhu rd cs1 imm => Sys2Proof.Machine.execClhu rd cs1 imm s
  | .clc cd cs1 imm => Sys2Proof.Machine.execClc cd cs1 imm s
  | .csb rs2 cs1 imm => Sys2Proof.Machine.execCsb rs2 cs1 imm s
  | .csh rs2 cs1 imm => Sys2Proof.Machine.execCsh rs2 cs1 imm s
  | .csw rs2 cs1 imm => Sys2Proof.Machine.execCsw rs2 cs1 imm s
  | .csc cs2 cs1 imm => Sys2Proof.Machine.execCsc cs2 cs1 imm s
  | .fence fm pred succ rs1 rd => Sys2Proof.Machine.execFence fm pred succ rs1 rd s
  | .fencei imm rs1 rd => Sys2Proof.Machine.execFencei imm rs1 rd s
  | .ecall => Sys2Proof.Machine.execEcall s
  | .ebreak => Sys2Proof.Machine.execEbreak s
  | .wfi => Sys2Proof.Machine.execWfi s
  | .mret => Sys2Proof.Machine.execMret s
  | .csrrw rd csr rs1 => Sys2Proof.Machine.execCsrrw rd csr rs1 s
  | .csrrs rd csr rs1 => Sys2Proof.Machine.execCsrrs rd csr rs1 s
  | .csrrc rd csr rs1 => Sys2Proof.Machine.execCsrrc rd csr rs1 s
  | .csrrwi rd csr uimm => Sys2Proof.Machine.execCsrrwi rd csr uimm s
  | .csrrsi rd csr uimm => Sys2Proof.Machine.execCsrrsi rd csr uimm s
  | .csrrci rd csr uimm => Sys2Proof.Machine.execCsrrci rd csr uimm s
  | .cspecialrw cd scr cs1 => Sys2Proof.Machine.execCspecialrw cd scr cs1 s
  | .auipcc cd imm => Sys2Proof.Machine.execAuipcc cd imm s
  | .auicgp cd imm => Sys2Proof.Machine.execAuicgp cd imm s
  | .cincaddr cd cs1 rs2 => Sys2Proof.Machine.execCincaddr cd cs1 rs2 s
  | .cincaddrimm cd cs1 imm => Sys2Proof.Machine.execCincaddrimm cd cs1 imm s
  | .csetaddr cd cs1 rs2 => Sys2Proof.Machine.execCsetaddr cd cs1 rs2 s
  | .csetbounds cd cs1 rs2 => Sys2Proof.Machine.execCsetbounds cd cs1 rs2 s
  | .csetboundsexact cd cs1 rs2 => Sys2Proof.Machine.execCsetboundsexact cd cs1 rs2 s
  | .csetboundsimm cd cs1 uimm => Sys2Proof.Machine.execCsetboundsimm cd cs1 uimm s
  | .candperm cd cs1 rs2 => Sys2Proof.Machine.execCandperm cd cs1 rs2 s
  | .cseal cd cs1 cs2 => Sys2Proof.Machine.execCseal cd cs1 cs2 s
  | .cunseal cd cs1 cs2 => Sys2Proof.Machine.execCunseal cd cs1 cs2 s
  | .cmove cd cs1 => Sys2Proof.Machine.execCmove cd cs1 s
  | .ccleartag cd cs1 => Sys2Proof.Machine.execCcleartag cd cs1 s
  | .csethigh cd cs1 rs2 => Sys2Proof.Machine.execCsethigh cd cs1 rs2 s
  | .cgetperm rd cs1 => Sys2Proof.Machine.execCgetperm rd cs1 s
  | .cgettype rd cs1 => Sys2Proof.Machine.execCgettype rd cs1 s
  | .cgetbase rd cs1 => Sys2Proof.Machine.execCgetbase rd cs1 s
  | .cgetlen rd cs1 => Sys2Proof.Machine.execCgetlen rd cs1 s
  | .cgettop rd cs1 => Sys2Proof.Machine.execCgettop rd cs1 s
  | .cgettag rd cs1 => Sys2Proof.Machine.execCgettag rd cs1 s
  | .cgetaddr rd cs1 => Sys2Proof.Machine.execCgetaddr rd cs1 s
  | .cgethigh rd cs1 => Sys2Proof.Machine.execCgethigh rd cs1 s
  | .csub rd cs1 cs2 => Sys2Proof.Machine.execCsub rd cs1 cs2 s
  | .ctestsubset rd cs1 cs2 => Sys2Proof.Machine.execCtestsubset rd cs1 cs2 s
  | .csetequalexact rd cs1 cs2 => Sys2Proof.Machine.execCsetequalexact rd cs1 cs2 s
  | .crrl rd rs1 => Sys2Proof.Machine.execCrrl rd rs1 s
  | .cram rd rs1 => Sys2Proof.Machine.execCram rd rs1 s
  | .rvcAddi4spn cd nzuimm => Sys2Proof.Machine.execRvcAddi4spn cd nzuimm s
  | .rvcLw rd cs1 uimm => Sys2Proof.Machine.execRvcLw rd cs1 uimm s
  | .rvcLc cd cs1 uimm => Sys2Proof.Machine.execRvcLc cd cs1 uimm s
  | .rvcSw rs2 cs1 uimm => Sys2Proof.Machine.execRvcSw rs2 cs1 uimm s
  | .rvcSc cs2 cs1 uimm => Sys2Proof.Machine.execRvcSc cs2 cs1 uimm s
  | .rvcNop imm => Sys2Proof.Machine.execRvcNop imm s
  | .rvcAddi rd imm => Sys2Proof.Machine.execRvcAddi rd imm s
  | .rvcJal off => Sys2Proof.Machine.execRvcJal off s
  | .rvcLi rd imm => Sys2Proof.Machine.execRvcLi rd imm s
  | .rvcAddi16sp nzimm => Sys2Proof.Machine.execRvcAddi16sp nzimm s
  | .rvcLui rd imm => Sys2Proof.Machine.execRvcLui rd imm s
  | .rvcSrli rd shamt => Sys2Proof.Machine.execRvcSrli rd shamt s
  | .rvcSrai rd shamt => Sys2Proof.Machine.execRvcSrai rd shamt s
  | .rvcAndi rd imm => Sys2Proof.Machine.execRvcAndi rd imm s
  | .rvcSub rd rs2 => Sys2Proof.Machine.execRvcSub rd rs2 s
  | .rvcXor rd rs2 => Sys2Proof.Machine.execRvcXor rd rs2 s
  | .rvcOr rd rs2 => Sys2Proof.Machine.execRvcOr rd rs2 s
  | .rvcAnd rd rs2 => Sys2Proof.Machine.execRvcAnd rd rs2 s
  | .rvcJ off => Sys2Proof.Machine.execRvcJ off s
  | .rvcBeqz rs1 off => Sys2Proof.Machine.execRvcBeqz rs1 off s
  | .rvcBnez rs1 off => Sys2Proof.Machine.execRvcBnez rs1 off s
  | .rvcSlli rd shamt => Sys2Proof.Machine.execRvcSlli rd shamt s
  | .rvcLwsp rd uimm => Sys2Proof.Machine.execRvcLwsp rd uimm s
  | .rvcLcsp cd uimm => Sys2Proof.Machine.execRvcLcsp cd uimm s
  | .rvcJr cs1 => Sys2Proof.Machine.execRvcJr cs1 s
  | .rvcMv cd cs2 => Sys2Proof.Machine.execRvcMv cd cs2 s
  | .rvcEbreak => Sys2Proof.Machine.execRvcEbreak s
  | .rvcJalr cs1 => Sys2Proof.Machine.execRvcJalr cs1 s
  | .rvcAdd rd rs2 => Sys2Proof.Machine.execRvcAdd rd rs2 s
  | .rvcSwsp rs2 uimm => Sys2Proof.Machine.execRvcSwsp rs2 uimm s
  | .rvcScsp cs2 uimm => Sys2Proof.Machine.execRvcScsp cs2 uimm s

end Sys2Proof.Machine
end

