-- ==== Sys2Proof/Machine/Fetch.lean ====
section
/-! DEFINITION. Instruction fetch (41_control_transfer.md R280, 20_memory.md R122, R152). -/

namespace Sys2Proof.Machine

/-- A parcel as it stands in memory now (R122). -/
def State.newParcel (s : State) (a : Nat) : Parcel :=
  s.byteAt .fetch (a + 1) ++ s.byteAt .fetch a

/-- A store writes a byte of the parcel at `a`. -/
def UnfencedStore.touches (st : UnfencedStore) (a : Nat) : Bool :=
  decide (st.addr < a + 2 ∧ a < st.addr + st.bytes.length)

/-- A memory with those of the stores made that `seen` picks, by the number of a store and the store;
the list has the newest first. -/
def replay (p : Platform) (seen : Nat → UnfencedStore → Bool) (m : Memory) :
    List UnfencedStore → Memory
  | [] => m
  | st :: older =>
    let before := replay p seen m older
    if seen older.length st then writeBytes p before st.addr st.bytes else before

/-- Memory as a fetch of the parcel at `a` sees it: as at the last FENCE.I, with each later store to the
parcel seen or not (R152, U25; log 11). -/
def State.fetchMem (s : State) (a : Nat) : Memory :=
  replay s.platform (fun n st => st.touches a && Config.fetchSeesStore n a s.draws) s.codeMem
    s.unfenced

/-- The parcel a fetch gets: for each store to it since the last FENCE.I, the old bytes or the new ones
(R152, U25; log 11). -/
def State.fetchParcel (s : State) (a : Nat) : Parcel :=
  State.newParcel { s with mem := s.fetchMem a } a

/-- The check of one parcel: bounds, then mapping (R280 steps 4, 5 and 7). -/
def State.checkParcel (s : State) (a : Nat) : Option Exc :=
  if !s.pcc.inBounds a 2 then some (.cheri .bounds .pcc)
  else if (mapped s.platform a).isNone then some (.fetchAccessFault (BitVec.ofNat 32 a))
  else none

/-- The check of PCC and of the first parcel (R280 steps 1 to 5). -/
def State.checkFetch (s : State) : Option Exc :=
  if !s.pcc.tag then some (.cheri .tag .pcc)
  else if s.pcc.isSealed then some (.cheri .seal .pcc)
  else if !s.pcc.isExec then some (.cheri .ex .pcc)
  else s.checkParcel s.pc.toNat

/-- The bits of the instruction at `pc`, or the exception of its fetch (R280). -/
def State.fetch (s : State) : Except Exc Encoded :=
  match s.checkFetch with
  | some e => .error e
  | none =>
    let h := s.fetchParcel s.pc.toNat
    if parcelLength h = 2 then .ok (.parcel h)
    else
      match s.checkParcel (s.pc.toNat + 2) with
      | some e => .error e
      | none => .ok (.word (s.fetchParcel (s.pc.toNat + 2) ++ h))

end Sys2Proof.Machine
end

