-- ==== Sys2Proof/Machine/Step.lean ====
section
/-! DEFINITION. One step of the machine (41_control_transfer.md R281), and an instruction placed where
the next step fetches it. -/

namespace Sys2Proof.Machine

/-- What a step does once its draw number is fixed: an interrupt, or the fetch and its exception, or
the instruction (R281). DESIGN CHOICE (log 26): an instruction that stores to the granule it was
fetched from, which U32 would refuse, runs as any other: fetched first, then its store. -/
def State.act (s : State) : Result :=
  match s.interrupt with
  | some code => .next (s.takeInterrupt code)
  | none =>
    match s.fetch with
    | .error e => raise e s
    | .ok w =>
      match decode w.bytes with
      | .error _ => raise (.illegal w.bits) s
      | .ok i => exec i s

/-- One step. Each step has a draw number of its own (log 7). -/
def step (s : State) : Host.Outcome State Fault Refusal := s.tick.act

/-- Bytes placed in a memory, from an address upward. -/
def placeBytes (m : Memory) (a : Nat) : List Byte → Memory
  | [] => m
  | v :: rest => placeBytes (m.write a v) (a + 1) rest

/-- The instruction whose bits are `w` (the bits above `nbits` zero) stored at `pc`, where every fetch
sees it, as after a FENCE.I (log 19). -/
def State.withFetchWord (s : State) (nbits w : Nat) : State :=
  let placed := placeBytes s.mem s.pc.toNat (wordBytes (BitVec.ofNat 32 (w % 2 ^ nbits)))
  { s with mem := placed, codeMem := placed, unfenced := [] }

end Sys2Proof.Machine
end

