-- ==== Sys2Proof/Safety.lean ====
section
/-! DEFINITION. The terms claims are stated in: what two states agree on (frames), the shapes of a
result (a register written, bytes stored, a trap taken), the 32-bit form of a 16-bit instruction,
and the invariants of the machine. -/

namespace Sys2Proof.Machine

/-! ## Frames -/

/-- Every register holds what it held. -/
def SameRegs (s t : State) : Prop := ∀ r, t.reg r = s.reg r

/-- Every register but one holds what it held. -/
def SameRegsBut (d : Reg) (s t : State) : Prop := ∀ r, r ≠ d → t.reg r = s.reg r

/-- Every byte and every tag of memory reads as before. -/
def SameMemory (s t : State) : Prop :=
  (∀ a, t.mem.read a = s.mem.read a) ∧ ∀ g, t.tags.read g = s.tags.read g

/-- The four special capability registers are unchanged. -/
def SameScrs (s t : State) : Prop :=
  t.mtcc = s.mtcc ∧ t.mtdc = s.mtdc ∧ t.mscratchc = s.mscratchc ∧ t.mepcc = s.mepcc

/-- `mstatus` is unchanged. -/
def SameStatus (s t : State) : Prop :=
  t.mstatusMie = s.mstatusMie ∧ t.mstatusMpie = s.mstatusMpie

/-- The registers that record a trap's cause are unchanged. -/
def SameCause (s t : State) : Prop := t.mcause = s.mcause ∧ t.mtval = s.mtval

/-- The stack high water mark is unchanged. -/
def SameMark (s t : State) : Prop := t.mshwm = s.mshwm

/-- The remaining control and status registers are unchanged. -/
def SameCsrs (s t : State) : Prop :=
  t.mie = s.mie ∧ t.mip = s.mip ∧ t.mscratch = s.mscratch ∧ t.mshwmb = s.mshwmb ∧
    t.mcycle = s.mcycle ∧ t.minstret = s.minstret ∧ t.time = s.time ∧ t.hpm = s.hpm

/-- What a fetch may see of memory, the draw counter and the platform are unchanged. -/
def SameRest (s t : State) : Prop :=
  t.codeMem = s.codeMem ∧ t.unfenced = s.unfenced ∧ t.draws = s.draws ∧ t.platform = s.platform

/-- Nothing but general registers, PCC and memory may have changed. -/
def SameSystem (s t : State) : Prop :=
  SameScrs s t ∧ SameStatus s t ∧ SameCause s t ∧ SameMark s t ∧ SameCsrs s t ∧ SameRest s t

/-! ## Shapes of a result -/

/-- The instruction completes: register `d` holds `v` (`c0` holds NULL), `pc` has moved by `len`, and
nothing else has changed. -/
def WritesCap (r : Result) (s : State) (d : Reg) (v : Cap) (len : Word) : Prop :=
  ∃ t, r = .next t ∧ t.reg d = (if d = .c0 then Cap.null else v) ∧ SameRegsBut d s t ∧
    t.pcc = s.pcc ∧ t.pc = s.pc + len ∧ SameMemory s t ∧ SameSystem s t

/-- The instruction completes with an integer result: tag 0, metadata 0, address `v` (R33). -/
def WritesInt (r : Result) (s : State) (d : Reg) (v : Word) (len : Word) : Prop :=
  WritesCap r s d (mkcap false 0 v) len

/-- The instruction completes and only `pc` has changed. -/
def MovesOnly (r : Result) (s : State) (pc : Word) : Prop :=
  ∃ t, r = .next t ∧ t.pc = pc ∧ t.pcc = s.pcc ∧ SameRegs s t ∧ SameMemory s t ∧ SameSystem s t

/-- The mark after a store whose lowest byte is at `addr` (R145). -/
def markAfter (s : State) (addr : Word) : Word :=
  if s.shwmbWord.toNat ≤ addr.toNat ∧ addr.toNat < s.shwmWord.toNat then addr &&& 0xFFFFFFF0
  else s.shwmWord

/-- An address lies in the granule `g` of some byte of an access of `n` bytes from `addr` on. -/
def touches (addr n g : Nat) : Bool := decide (∃ k, k < n ∧ g = (addr + k) / 8 * 8)

/-- The instruction completes with the bytes `bytes` stored from `addr` on (bytes of a device are not
stored), the store being one that fetches may miss until a FENCE.I (log 11), the tags as `tags` gives them, the mark updated, `pc` moved by `len`, and nothing else
changed. -/
def Stores (r : Result) (s : State) (addr : Word) (bytes : List Byte) (tags : Nat → Bool)
    (len : Word) : Prop :=
  ∃ t, r = .next t ∧
    (∀ k, k < bytes.length → isDevice s.platform (addr.toNat + k) = false →
      t.mem.read (addr.toNat + k) = bytes.getD k 0) ∧
    (∀ k, k < bytes.length → isDevice s.platform (addr.toNat + k) = true →
      t.mem.read (addr.toNat + k) = s.mem.read (addr.toNat + k)) ∧
    (∀ a, a < addr.toNat ∨ addr.toNat + bytes.length ≤ a → t.mem.read a = s.mem.read a) ∧
    (∀ g, t.tags.read g = tags g) ∧
    t.shwmWord = markAfter s addr ∧
    t.pc = s.pc + len ∧ t.pcc = s.pcc ∧ SameRegs s t ∧
    SameScrs s t ∧ SameStatus s t ∧ SameCause s t ∧ SameCsrs s t ∧
    t.codeMem = s.codeMem ∧ t.unfenced = ⟨addr.toNat, bytes⟩ :: s.unfenced ∧ t.draws = s.draws ∧
    t.platform = s.platform

/-- The trap entry of R480: what MEPCC, `mcause` and `mtval` receive is given; MPIE takes MIE, MIE is
cleared, PCC and `pc` come from MTCC, and nothing else changes. -/
def Traps (r : Result) (s : State) (epcc : Cap) (cause value : Word) : Prop :=
  ∃ t, r = .next t ∧ t.mepcc = epcc ∧ t.mcause = cause ∧ t.mtval = value ∧
    t.mstatusMpie = s.mstatusMie ∧ t.mstatusMie = false ∧ t.pcc = s.mtcc ∧ t.pc = s.mtcc.a ∧
    SameRegs s t ∧ SameMemory s t ∧
    t.mtcc = s.mtcc ∧ t.mtdc = s.mtdc ∧ t.mscratchc = s.mscratchc ∧
    SameMark s t ∧ SameCsrs s t ∧ SameRest s t

/-- `mtval` of a capability exception (R462). -/
def cheriValue (special : Bool) (idx cause : Nat) : Word :=
  BitVec.ofNat 32 ((if special then 1024 else 0) + idx * 32 + cause)

/-- A capability exception (mcause 0x1C) raised by an instruction, MEPCC being PCC at its address. -/
def TrapsCheri (r : Result) (s : State) (special : Bool) (idx cause : Nat) : Prop :=
  Traps r s (s.pccVal s.pc) 0x1C (cheriValue special idx cause)

/-- The illegal instruction exception (mcause 2) raised by an instruction with these bits. -/
def TrapsIllegal (r : Result) (s : State) (bits : Word) : Prop :=
  Traps r s (s.pccVal s.pc) 2 (if s.platform.mtvalIllegal = .zero then 0 else bits)

/-- The backward sentry a jump leaves (R284, R38): PCC at the next instruction, otype 5 or 4 by MIE. Its
tag is that of PCC where the address of the next instruction is representable, as it is on every jump
that was fetched but one at `pc + len` = 2^32 (log 27). -/
def linkCap (s : State) (len : Word) : Cap :=
  { s.pcc with
    a := s.pc + len
    otype := if s.mstatusMie then 5 else 4
    tag := s.pcc.tag && s.pcc.representable (s.pc + len) }

/-- A jump completes: `d` holds the link (`c0` holds NULL), PCC, `pc` and MIE are as given, and
nothing else has changed. -/
def Jumps (r : Result) (s : State) (d : Reg) (len : Word) (pcc : Cap) (pc : Word) (mie : Bool) :
    Prop :=
  ∃ t, r = .next t ∧ t.reg d = (if d = .c0 then Cap.null else linkCap s len) ∧ SameRegsBut d s t ∧
    t.pcc = pcc ∧ t.pc = pc ∧ t.mstatusMie = mie ∧ t.mstatusMpie = s.mstatusMpie ∧
    SameMemory s t ∧ SameScrs s t ∧ SameCause s t ∧ SameMark s t ∧ SameCsrs s t ∧ SameRest s t

/-- The instruction completes without an exception: `pc` has moved by `len`, and PCC, the SCRs, the
status, the cause registers and the registers other than `d` are unchanged. -/
def Completes (r : Result) (s : State) (d : Reg) (len : Word) : Prop :=
  ∃ t, r = .next t ∧ t.pc = s.pc + len ∧ t.pcc = s.pcc ∧ SameRegsBut d s t ∧ SameScrs s t ∧
    SameStatus s t ∧ SameCause s t

/-! ## Loads and stores -/

/-- The number that bytes form, the lowest address first (R121). -/
def leValue : List Byte → Nat
  | [] => 0
  | b :: rest => b.toNat + 256 * leValue rest

/-- The `n` bytes a load at `a` sees: of memory, or of a device. -/
def State.dataBytes (s : State) (a n : Nat) : List Byte :=
  (List.range n).map fun k => s.byteAt .data (a + k)

/-- The register `r` authorises an access of `n` bytes at `addr` that needs permission `q`, and every
byte is mapped (R300 steps 1 to 4 and 6). -/
def Grants (s : State) (r : Reg) (q : Perm) (addr n : Nat) : Prop :=
  (s.reg r).tag = true ∧ (s.reg r).isSealed = false ∧ (s.reg r).has q = true ∧
    (s.reg r).base ≤ addr ∧ addr + n ≤ (s.reg r).top ∧
    ∀ k, k < n → mapped s.platform (addr + k) ≠ none

/-- The alignment condition of an integer access (R124). -/
def Aligned (s : State) (addr n : Nat) : Prop := s.platform.misalignedDataOk = true ∨ addr % n = 0

/-- A load or store as R300 sees it. -/
structure Access where
  isLoad : Bool
  /-- the access moves a capability -/
  isCap : Bool
  base : Reg
  imm : Word
  size : Nat
  /-- the register stored, or the destination of a load -/
  data : Reg
  len : Word
deriving DecidableEq, Repr

end Sys2Proof.Machine

namespace Sys2Proof
open Sys2Proof.Machine

/-- The access of a load or store, in its 32-bit and its 16-bit forms. -/
def Instr.access : Instr → Option Access
  | .clb rd cs1 imm => some ⟨true, false, cs1, imm.signExtend 32, 1, rd, 4⟩
  | .clh rd cs1 imm => some ⟨true, false, cs1, imm.signExtend 32, 2, rd, 4⟩
  | .clw rd cs1 imm => some ⟨true, false, cs1, imm.signExtend 32, 4, rd, 4⟩
  | .clbu rd cs1 imm => some ⟨true, false, cs1, imm.signExtend 32, 1, rd, 4⟩
  | .clhu rd cs1 imm => some ⟨true, false, cs1, imm.signExtend 32, 2, rd, 4⟩
  | .clc cd cs1 imm => some ⟨true, true, cs1, imm.signExtend 32, 8, cd, 4⟩
  | .csb rs2 cs1 imm => some ⟨false, false, cs1, imm.signExtend 32, 1, rs2, 4⟩
  | .csh rs2 cs1 imm => some ⟨false, false, cs1, imm.signExtend 32, 2, rs2, 4⟩
  | .csw rs2 cs1 imm => some ⟨false, false, cs1, imm.signExtend 32, 4, rs2, 4⟩
  | .csc cs2 cs1 imm => some ⟨false, true, cs1, imm.signExtend 32, 8, cs2, 4⟩
  | .rvcLw rd cs1 u => some ⟨true, false, cs1.reg, u.setWidth 32 <<< 2, 4, rd.reg, 2⟩
  | .rvcLc cd cs1 u => some ⟨true, true, cs1.reg, u.setWidth 32 <<< 3, 8, cd.reg, 2⟩
  | .rvcSw rs2 cs1 u => some ⟨false, false, cs1.reg, u.setWidth 32 <<< 2, 4, rs2.reg, 2⟩
  | .rvcSc cs2 cs1 u => some ⟨false, true, cs1.reg, u.setWidth 32 <<< 3, 8, cs2.reg, 2⟩
  | .rvcLwsp rd u => some ⟨true, false, .c2, u.setWidth 32 <<< 2, 4, rd, 2⟩
  | .rvcLcsp cd u => some ⟨true, true, .c2, u.setWidth 32 <<< 3, 8, cd, 2⟩
  | .rvcSwsp rs2 u => some ⟨false, false, .c2, u.setWidth 32 <<< 2, 4, rs2, 2⟩
  | .rvcScsp cs2 u => some ⟨false, true, .c2, u.setWidth 32 <<< 3, 8, cs2, 2⟩
  | _ => none

end Sys2Proof

namespace Sys2Proof.Machine

/-- The lowest address of an access (R300). -/
def State.accessAddr (s : State) (m : Access) : Word := (s.reg m.base).a + m.imm

/-- The value a CSC stores needs MC of the authority (R300 step 3a). -/
def State.storesTagged (s : State) (m : Access) : Bool :=
  !m.isLoad && m.isCap && (s.reg m.data).tag

/-! ## CSR instructions -/

/-- How a CSR instruction makes the new value (R341 to R346). -/
inductive CsrOp where
  | write | set | clear
deriving DecidableEq, Repr

/-- The new value from the old one and the operand. -/
def CsrOp.apply : CsrOp → Word → Word → Word
  | .write, _, v => v
  | .set, old, v => old ||| v
  | .clear, old, v => old &&& ~~~v

/-- A CSR instruction as R340 sees it. -/
structure CsrForm where
  rd : Reg
  addr : BitVec 12
  writes : Bool
  op : CsrOp
  operand : Word
deriving DecidableEq, Repr

/-- The form of a CSR instruction; `writes` is decided by the field, not by its value (R340). -/
def State.csrForm (s : State) : Instr → Option CsrForm
  | .csrrw rd csr rs1 => some ⟨rd, csr, true, .write, s.x rs1⟩
  | .csrrs rd csr rs1 => some ⟨rd, csr, decide (rs1 ≠ .c0), .set, s.x rs1⟩
  | .csrrc rd csr rs1 => some ⟨rd, csr, decide (rs1 ≠ .c0), .clear, s.x rs1⟩
  | .csrrwi rd csr u => some ⟨rd, csr, true, .write, BitVec.ofNat 32 u.toNat⟩
  | .csrrsi rd csr u => some ⟨rd, csr, decide (u ≠ 0), .set, BitVec.ofNat 32 u.toNat⟩
  | .csrrci rd csr u => some ⟨rd, csr, decide (u ≠ 0), .clear, BitVec.ofNat 32 u.toNat⟩
  | _ => none

/-- A CSR address with bits 11:10 = 0b11 is read-only (R90). -/
def readOnlyAddr (addr : BitVec 12) : Bool := decide (0xC00 ≤ addr.toNat)

/-! ## Compressed instructions -/

end Sys2Proof.Machine

namespace Sys2Proof
open Sys2Proof.Machine

/-- The 32-bit instruction a 16-bit one expands to (R410, R411 to R450). -/
def Instr.expansion : Instr → Option Instr
  | .rvcAddi4spn cd u => some (.cincaddrimm cd.reg .c2 (u.setWidth 12 <<< 2))
  | .rvcLw rd cs1 u => some (.clw rd.reg cs1.reg (u.setWidth 12 <<< 2))
  | .rvcLc cd cs1 u => some (.clc cd.reg cs1.reg (u.setWidth 12 <<< 3))
  | .rvcSw rs2 cs1 u => some (.csw rs2.reg cs1.reg (u.setWidth 12 <<< 2))
  | .rvcSc cs2 cs1 u => some (.csc cs2.reg cs1.reg (u.setWidth 12 <<< 3))
  | .rvcNop imm => some (.addi .c0 .c0 (imm.signExtend 12))
  | .rvcAddi rd imm => some (.addi rd rd (imm.signExtend 12))
  | .rvcJal off => some (.cjal .c1 (off.signExtend 20))
  | .rvcLi rd imm => some (.addi rd .c0 (imm.signExtend 12))
  | .rvcAddi16sp n => some (.cincaddrimm .c2 .c2 (n.signExtend 12 <<< 4))
  | .rvcLui rd imm => some (.lui rd (imm.signExtend 20))
  | .rvcSrli rd shamt => some (.srli rd.reg rd.reg shamt)
  | .rvcSrai rd shamt => some (.srai rd.reg rd.reg shamt)
  | .rvcAndi rd imm => some (.andi rd.reg rd.reg (imm.signExtend 12))
  | .rvcSub rd rs2 => some (.sub rd.reg rd.reg rs2.reg)
  | .rvcXor rd rs2 => some (.xor rd.reg rd.reg rs2.reg)
  | .rvcOr rd rs2 => some (.or rd.reg rd.reg rs2.reg)
  | .rvcAnd rd rs2 => some (.and rd.reg rd.reg rs2.reg)
  | .rvcJ off => some (.cjal .c0 (off.signExtend 20))
  | .rvcBeqz rs1 off => some (.beq rs1.reg .c0 (off.signExtend 12))
  | .rvcBnez rs1 off => some (.bne rs1.reg .c0 (off.signExtend 12))
  | .rvcSlli rd shamt => some (.slli rd rd shamt)
  | .rvcLwsp rd u => some (.clw rd .c2 (u.setWidth 12 <<< 2))
  | .rvcLcsp cd u => some (.clc cd .c2 (u.setWidth 12 <<< 3))
  | .rvcJr cs1 => some (.cjalr .c0 cs1 0)
  | .rvcMv cd cs2 => some (.cmove cd cs2)
  | .rvcEbreak => some .ebreak
  | .rvcJalr cs1 => some (.cjalr .c1 cs1 0)
  | .rvcAdd rd rs2 => some (.add rd rd rs2)
  | .rvcSwsp rs2 u => some (.csw rs2 .c2 (u.setWidth 12 <<< 2))
  | .rvcScsp cs2 u => some (.csc cs2 .c2 (u.setWidth 12 <<< 3))
  | .lui .. | .addi .. | .slti .. | .sltiu .. | .xori .. | .ori .. | .andi .. | .slli ..
  | .srli .. | .srai .. | .add .. | .sub .. | .sll .. | .slt .. | .sltu .. | .xor .. | .srl ..
  | .sra .. | .or .. | .and .. | .mul .. | .mulh .. | .mulhsu .. | .mulhu .. | .div ..
  | .divu .. | .rem .. | .remu .. | .cjal .. | .cjalr .. | .beq .. | .bne .. | .blt ..
  | .bge .. | .bltu .. | .bgeu .. | .clb .. | .clh .. | .clw .. | .clbu .. | .clhu .. | .clc ..
  | .csb .. | .csh .. | .csw .. | .csc .. | .fence .. | .fencei .. | .ecall .. | .ebreak ..
  | .wfi .. | .mret .. | .csrrw .. | .csrrs .. | .csrrc .. | .csrrwi .. | .csrrsi ..
  | .csrrci .. | .cspecialrw .. | .auipcc .. | .auicgp .. | .cincaddr .. | .cincaddrimm ..
  | .csetaddr .. | .csetbounds .. | .csetboundsexact .. | .csetboundsimm .. | .candperm ..
  | .cseal .. | .cunseal .. | .cmove .. | .ccleartag .. | .csethigh .. | .cgetperm ..
  | .cgettype .. | .cgetbase .. | .cgetlen .. | .cgettop .. | .cgettag .. | .cgetaddr ..
  | .cgethigh .. | .csub .. | .ctestsubset .. | .csetequalexact .. | .crrl .. | .cram .. => none

end Sys2Proof

namespace Sys2Proof.Machine

/-! ## Invariants -/

/-- The lists that hold memory and tags are in their canonical form, and memory is memory at the last
FENCE.I with every store since then made. -/
def State.canonical (s : State) : Prop :=
  s.mem.wf ∧ s.codeMem.wf ∧ s.tags.wf ∧
    replay s.platform (fun _ _ => true) s.codeMem s.unfenced = s.mem

/-- A capability that may be installed in PCC (R39): unsealed and executable if tagged. -/
def Cap.installable (c : Cap) : Prop := c.tag = true → c.isSealed = false ∧ c.isExec = true

/-- R39, R82, R83: `pc` is even, the address of MTCC is a multiple of 4 and that of MEPCC of 2, and
PCC, MTCC and MEPCC are unsealed and executable when tagged. -/
def State.pccSound (s : State) : Prop :=
  s.pc.toNat % 2 = 0 ∧ s.mtcc.a.toNat % 4 = 0 ∧ s.mepcc.a.toNat % 2 = 0 ∧
    s.pcc.installable ∧ s.mtcc.installable ∧ s.mepcc.installable

/-- The invariant of tagged capabilities (R64): bounds in order and inside the address space, the
address in the representable range. -/
def Cap.wellFormed (c : Cap) : Prop :=
  c.base ≤ c.top ∧ c.top ≤ 4294967296 ∧
    (c.exp = 24 ∨ c.base ≤ c.a.toNat ∧ c.a.toNat < c.base + 2 ^ (c.exp + 9))

/-- The decoded bounds are out of order, so no access is in bounds (`Cap.void.inBounds`). No step makes a
tagged capability of this kind (CapsWellFormedKept); an arbitrary state may hold one (R64). -/
def Cap.void (c : Cap) : Prop := c.top < c.base

/-- The machine holds a capability: in a general register, PCC, an SCR, or a granule of memory. -/
inductive State.holds (s : State) : Cap → Prop where
  | reg (r : Reg) : s.holds (s.reg r)
  | pcc : s.holds s.pcc
  | scr (n : Scr) : s.holds (s.scr n)
  | memory (g : Nat) (aligned : g % 8 = 0) : s.holds (s.loadCap g)

/-- No granule with a byte of a device has its tag set. -/
def State.devicesUntagged (s : State) : Prop :=
  ∀ g, g % 8 = 0 → s.tags.read g = true → deviceGranule s.platform g = false

/-- Every tagged capability the machine holds satisfies R64. -/
def State.capsWellFormed (s : State) : Prop :=
  s.devicesUntagged ∧ ∀ c, s.holds c → c.tag = true → c.wellFormed

/-- Every tagged capability the machine holds satisfies R64 or has its bounds out of order. -/
def State.capsSound (s : State) : Prop :=
  s.devicesUntagged ∧ ∀ c, s.holds c → c.tag = true → c.wellFormed ∨ c.void

/-- The rights of `d` are among those of `c`: bounds inside, permissions a subset (R377). -/
def Cap.within (d c : Cap) : Prop :=
  c.base ≤ d.base ∧ d.top ≤ c.top ∧ d.perms &&& ~~~c.perms = 0

end Sys2Proof.Machine
end

