-- ==== Sys2Proof/Certificates/Slice0/Obligations.lean ====
section
/-! DEFINITION. The statements for the provers. `r` is what `exec` or `step` answers; the shapes
`WritesInt`, `WritesCap`, `MovesOnly`, `Jumps`, `Stores`, `Traps` of Safety.lean say that the
instruction completes, what it writes, and that it writes nothing else. -/

open Sys2Proof Sys2Proof.Machine

/-! ## Encoding -/

/-- R170 to R179, 46_compressed.md: the decoder reads back every encoded well-formed instruction,
whatever bytes follow it. -/
def Obligations.DecodeOfEncode : Prop :=
  ∀ (i : Instr) (rest : List Byte), i.wellFormed = true →
    decode ((encode i).bytes ++ rest) = .ok i

/-- R170, R182, R454: whatever decodes is well formed, and the bytes begin with its one encoding. -/
def Obligations.EncodeOfDecode : Prop :=
  ∀ (bytes : List Byte) (i : Instr), decode bytes = .ok i →
    i.wellFormed = true ∧ ∃ rest, bytes = (encode i).bytes ++ rest

/-- Words of 40_integer.md, 41_control_transfer.md, 42_loads_stores.md, 43_system.md,
44_capability_modify.md, 45_capability_inspect.md and 46_compressed.md decode to the instruction that
stands beside them there. -/
def Obligations.SpecWordsDecode : Prop :=
  decodeTableWord 32 0x12345537 = some (.lui .c10 0x12345) ∧
    decodeTableWord 32 0x02C5C533 = some (.div .c10 .c11 .c12) ∧
    decodeTableWord 32 0xFEB51EE3 = some (.bne .c10 .c11 0xFFE) ∧
    decodeTableWord 32 0x0085B503 = some (.clc .c10 .c11 8) ∧
    decodeTableWord 32 0x03D0055B = some (.cspecialrw .c10 .mtdc .c0) ∧
    decodeTableWord 32 0x22C5855B = some (.cincaddr .c10 .c11 .c12) ∧
    decodeTableWord 32 0xFF85855B = some (.cgettop .c10 .c11) ∧
    decodeTableWord 16 0x3001 = some (.rvcJal 0x400)

/-! ## The step -/

/-- R182, R281: with no interrupt to take, a step runs the instruction that the fetched bits decode to,
on the state with its draw number advanced (the counter is the model's own, log 7); bits that are no
instruction take the illegal instruction exception. That an instruction which overwrites its own
granule runs as any other is the model's choice (U32, log 26). -/
def Obligations.StepRunsTheDecodedInstruction : Prop :=
  ∀ (s : State) (w : Encoded), s.interrupt = none → s.tick.fetch = .ok w →
    (∀ i, decode w.bytes = .ok i → step s = exec i { s with draws := s.draws + 1 }) ∧
    ∀ e, decode w.bytes = .error e → TrapsIllegal (step s) s.tick w.bits

/-- R122, R152, R280, R281: an instruction that lay at `pc` at the last FENCE.I, in mapped ram within the
bounds of a tagged, unsealed, executable PCC, and that every store since then left there, is the one a
step runs, on the state with its draw number advanced (the counter, and the record of memory at the last
FENCE.I and of the stores since then, are the model's own, log 7 and 11). That an instruction which overwrites its own granule runs as any other is the model's
choice (U32, log 26). -/
def Obligations.PlacedInstructionRuns : Prop :=
  ∀ (s : State) (i : Instr), i.wellFormed = true → s.interrupt = none →
    s.pcc.tag = true → s.pcc.isSealed = false → s.pcc.isExec = true →
    s.pcc.base ≤ s.pc.toNat → s.pc.toNat + (encode i).length ≤ s.pcc.top →
    (∀ k, k < (encode i).length → mapped s.platform (s.pc.toNat + k) = some .ram ∧
      s.codeMem.read (s.pc.toNat + k) = (encode i).bytes.getD k 0 ∧
      ∀ st, st ∈ s.unfenced → ∀ j, j < st.bytes.length → st.addr + j = s.pc.toNat + k →
        st.bytes.getD j 0 = (encode i).bytes.getD k 0) →
    step s = exec i { s with draws := s.draws + 1 }

/-- R470, R471, R480: a step takes no interrupt exactly when MIE is clear or no interrupt of the
platform is both pending and enabled; otherwise it takes the first that is, in the order of priority:
local interrupts, then bits 11, 3, 7. MEPCC is PCCval(pc) of R38, so its tag is cleared at a `pc` that
PCC cannot represent: the model's reading of R38 against R480 (log 13, DEDUCED). -/
def Obligations.InterruptsByPriority : Prop :=
  ∀ (s : State),
    irqOrder s.platform = s.platform.localIrqs.map (fun n => 16 + n.val) ++ [11, 3, 7] ∧
    (s.interrupt = none ↔
      s.mstatusMie = false ∨ ∀ k, k ∈ irqOrder s.platform → (s.mip &&& s.mie).getLsbD k = false) ∧
    ∀ (before after : List Nat) (k : Nat), irqOrder s.platform = before ++ k :: after →
      s.mstatusMie = true → (∀ j, j ∈ before → (s.mip &&& s.mie).getLsbD j = false) →
      (s.mip &&& s.mie).getLsbD k = true →
      Traps (step s) s.tick (s.pccVal s.pc) (0x80000000#32 ||| BitVec.ofNat 32 k) 0

/-- R280, R481: the checks of a fetch, in order. A bounds violation leaves MEPCC untagged, at the
address of the instruction even when its second parcel is at fault. -/
def Obligations.FetchChecksInOrder : Prop :=
  ∀ (s : State), s.interrupt = none →
    let second : Bool := decide ((s.tick.fetchParcel s.pc.toNat).extractLsb' 0 2 = 3#2)
    let untagged : Cap := { s.pccVal s.pc with tag := false }
    if s.pcc.tag = false then TrapsCheri (step s) s.tick true 0 0x02
    else if s.pcc.isSealed = true then TrapsCheri (step s) s.tick true 0 0x03
    else if s.pcc.isExec = false then TrapsCheri (step s) s.tick true 0 0x11
    else if s.pc.toNat < s.pcc.base ∨ s.pcc.top < s.pc.toNat + 2 then
      Traps (step s) s.tick untagged 0x1C 0x401
    else if mapped s.platform s.pc.toNat = none then
      Traps (step s) s.tick (s.pccVal s.pc) 1 s.pc
    else if second = true ∧ s.pcc.top < s.pc.toNat + 4 then
      Traps (step s) s.tick untagged 0x1C 0x401
    else if second = true ∧ mapped s.platform (s.pc.toNat + 2) = none then
      Traps (step s) s.tick (s.pccVal s.pc) 1 (s.pc + 2)
    else ∃ w, s.tick.fetch = .ok w ∧ w.length = if second then 4 else 2

/-- R484: an untagged MTCC makes an endless loop of the same exception; an untagged PCC that MRET
installed makes one exception, at the address MRET jumped to. -/
def Obligations.UntaggedTrapVectorLoops : Prop :=
  (∀ (s : State), s.mtcc.tag = false → s.pcc = s.mtcc → s.pc = s.mtcc.a → s.mstatusMie = false →
    ∀ n : Nat, Host.Core.run core (n + 1) s = .next { s with
      mepcc := s.mtcc, mcause := 0x1C, mtval := 0x402, mstatusMpie := false,
      draws := s.draws + (n + 1) }) ∧
  ∀ (s t : State), s.hasSr = true → s.mepcc.tag = false → exec .mret s = .next t →
    t.interrupt = none → Traps (step t) t.tick s.mepcc 0x1C 0x402

/-- R484, R496: nothing stops the machine; every step has a next state. That this includes an
instruction which overwrites its own granule is the model's choice (U32, log 26). -/
def Obligations.EveryStepHasANextState : Prop := ∀ (s : State), ∃ t, step s = .next t

/-! ## Integer instructions -/

/-- R32: `c0` reads as NULL, and writing it changes nothing. -/
def Obligations.RegisterZero : Prop :=
  ∀ (s : State) (v : Cap), s.reg .c0 = Cap.null ∧ s.setReg .c0 v = s ∧
    ∀ (r d : Reg), r ≠ .c0 → (s.setReg r v).reg d = if d = r then v else s.reg d

/-- R222 to R231: the immediate forms. -/
def Obligations.IntegerImmediateResults : Prop :=
  ∀ (s : State) (rd rs1 : Reg) (upper : BitVec 20) (imm : BitVec 12) (n : BitVec 5),
    let a := s.x rs1
    WritesInt (exec (.lui rd upper) s) s rd (BitVec.ofNat 32 (upper.toNat * 4096)) 4 ∧
    WritesInt (exec (.addi rd rs1 imm) s) s rd (BitVec.ofInt 32 (a.toInt + imm.toInt)) 4 ∧
    WritesInt (exec (.slti rd rs1 imm) s) s rd (if a.toInt < imm.toInt then 1 else 0) 4 ∧
    WritesInt (exec (.sltiu rd rs1 imm) s) s rd
      (if a.toNat < (imm.signExtend 32).toNat then 1 else 0) 4 ∧
    WritesInt (exec (.xori rd rs1 imm) s) s rd (a ^^^ imm.signExtend 32) 4 ∧
    WritesInt (exec (.ori rd rs1 imm) s) s rd (a ||| imm.signExtend 32) 4 ∧
    WritesInt (exec (.andi rd rs1 imm) s) s rd (a &&& imm.signExtend 32) 4 ∧
    WritesInt (exec (.slli rd rs1 n) s) s rd (BitVec.ofNat 32 (a.toNat * 2 ^ n.toNat)) 4 ∧
    WritesInt (exec (.srli rd rs1 n) s) s rd (BitVec.ofNat 32 (a.toNat / 2 ^ n.toNat)) 4 ∧
    WritesInt (exec (.srai rd rs1 n) s) s rd (BitVec.ofInt 32 (a.toInt / 2 ^ n.toNat)) 4

/-- R232 to R241: the register forms; shifts use bits 4:0 of the second operand. -/
def Obligations.IntegerRegisterResults : Prop :=
  ∀ (s : State) (rd rs1 rs2 : Reg),
    let a := s.x rs1
    let b := s.x rs2
    WritesInt (exec (.add rd rs1 rs2) s) s rd (BitVec.ofNat 32 (a.toNat + b.toNat)) 4 ∧
    WritesInt (exec (.sub rd rs1 rs2) s) s rd
      (BitVec.ofInt 32 ((a.toNat : Int) - (b.toNat : Int))) 4 ∧
    WritesInt (exec (.sll rd rs1 rs2) s) s rd (BitVec.ofNat 32 (a.toNat * 2 ^ (b.toNat % 32))) 4 ∧
    WritesInt (exec (.slt rd rs1 rs2) s) s rd (if a.toInt < b.toInt then 1 else 0) 4 ∧
    WritesInt (exec (.sltu rd rs1 rs2) s) s rd (if a.toNat < b.toNat then 1 else 0) 4 ∧
    WritesInt (exec (.xor rd rs1 rs2) s) s rd (a ^^^ b) 4 ∧
    WritesInt (exec (.srl rd rs1 rs2) s) s rd (BitVec.ofNat 32 (a.toNat / 2 ^ (b.toNat % 32))) 4 ∧
    WritesInt (exec (.sra rd rs1 rs2) s) s rd (BitVec.ofInt 32 (a.toInt / 2 ^ (b.toNat % 32))) 4 ∧
    WritesInt (exec (.or rd rs1 rs2) s) s rd (a ||| b) 4 ∧
    WritesInt (exec (.and rd rs1 rs2) s) s rd (a &&& b) 4

/-- R245 to R253: multiply and divide on a platform that has them, with every corner; without `HAS_M`
each is an illegal instruction, with its own bits. -/
def Obligations.MultiplyDivideResults : Prop :=
  ∀ (s : State) (rd rs1 rs2 : Reg),
    let a := s.x rs1
    let b := s.x rs2
    let overflow : Bool := a == 0x80000000#32 && b == 0xFFFFFFFF#32
    (s.platform.hasM = false →
      ∀ i, i ∈ [.mul rd rs1 rs2, .mulh rd rs1 rs2, .mulhsu rd rs1 rs2, .mulhu rd rs1 rs2,
        .div rd rs1 rs2, .divu rd rs1 rs2, .rem rd rs1 rs2, .remu rd rs1 rs2] →
      TrapsIllegal (exec i s) s (encode i).bits) ∧
    (s.platform.hasM = true →
    WritesInt (exec (.mul rd rs1 rs2) s) s rd (BitVec.ofNat 32 (a.toNat * b.toNat)) 4 ∧
    WritesInt (exec (.mulh rd rs1 rs2) s) s rd
      ((a.signExtend 64 * b.signExtend 64).extractLsb' 32 32) 4 ∧
    WritesInt (exec (.mulhsu rd rs1 rs2) s) s rd
      ((a.signExtend 64 * b.setWidth 64).extractLsb' 32 32) 4 ∧
    WritesInt (exec (.mulhu rd rs1 rs2) s) s rd
      ((a.setWidth 64 * b.setWidth 64).extractLsb' 32 32) 4 ∧
    WritesInt (exec (.div rd rs1 rs2) s) s rd
      (if b = 0 then 0xFFFFFFFF else if overflow then 0x80000000
        else BitVec.ofInt 32 (a.toInt.tdiv b.toInt)) 4 ∧
    WritesInt (exec (.divu rd rs1 rs2) s) s rd
      (if b = 0 then 0xFFFFFFFF else BitVec.ofNat 32 (a.toNat / b.toNat)) 4 ∧
    WritesInt (exec (.rem rd rs1 rs2) s) s rd
      (if b = 0 then a else if overflow then 0
        else BitVec.ofInt 32 (a.toInt - a.toInt.tdiv b.toInt * b.toInt)) 4 ∧
    WritesInt (exec (.remu rd rs1 rs2) s) s rd
      (if b = 0 then a else BitVec.ofNat 32 (a.toNat % b.toNat)) 4)

/-- R421 to R432, R438, R447, R452: the compressed integer forms write an integer and move on by 2;
C.NOP moves on only. -/
def Obligations.CompressedIntegerResults : Prop :=
  ∀ (s : State) (rd rs2 : Reg) (r q : CReg) (imm : BitVec 6) (n : BitVec 5),
    MovesOnly (exec (.rvcNop imm) s) s (s.pc + 2) ∧
    WritesInt (exec (.rvcAddi rd imm) s) s rd (BitVec.ofInt 32 ((s.x rd).toInt + imm.toInt)) 2 ∧
    WritesInt (exec (.rvcLi rd imm) s) s rd (BitVec.ofInt 32 imm.toInt) 2 ∧
    WritesInt (exec (.rvcLui rd imm) s) s rd (BitVec.ofInt 32 (imm.toInt * 4096)) 2 ∧
    WritesInt (exec (.rvcSrli r n) s) s r.reg
      (BitVec.ofNat 32 ((s.x r.reg).toNat / 2 ^ n.toNat)) 2 ∧
    WritesInt (exec (.rvcSrai r n) s) s r.reg
      (BitVec.ofInt 32 ((s.x r.reg).toInt / 2 ^ n.toNat)) 2 ∧
    WritesInt (exec (.rvcAndi r imm) s) s r.reg (s.x r.reg &&& imm.signExtend 32) 2 ∧
    WritesInt (exec (.rvcSub r q) s) s r.reg
      (BitVec.ofInt 32 ((s.x r.reg).toNat - (s.x q.reg).toNat : Int)) 2 ∧
    WritesInt (exec (.rvcXor r q) s) s r.reg (s.x r.reg ^^^ s.x q.reg) 2 ∧
    WritesInt (exec (.rvcOr r q) s) s r.reg (s.x r.reg ||| s.x q.reg) 2 ∧
    WritesInt (exec (.rvcAnd r q) s) s r.reg (s.x r.reg &&& s.x q.reg) 2 ∧
    WritesInt (exec (.rvcSlli rd n) s) s rd (BitVec.ofNat 32 ((s.x rd).toNat * 2 ^ n.toNat)) 2 ∧
    WritesInt (exec (.rvcAdd rd rs2) s) s rd
      (BitVec.ofNat 32 ((s.x rd).toNat + (s.x rs2).toNat)) 2

/-- R187, R410: a 16-bit instruction other than the two linking jumps does what its expansion does with
length 2. C.J, C.JR, C.EBREAK and a taken branch leave the state of the expansion itself; every other
form leaves that state with `pc + 2` in place of `pc + 4`, but for a load or store whose expansion
takes an exception, which it takes too. -/
def Obligations.CompressedRunsItsExpansion : Prop :=
  ∀ (s t : State) (i j : Instr), i.expansion = some j → (∀ off, i ≠ .rvcJal off) →
    (∀ r, i ≠ .rvcJalr r) → exec j s = .next t →
    let setsPc : Prop := (∃ off, i = .rvcJ off) ∨ (∃ r, i = .rvcJr r) ∨ i = .rvcEbreak ∨
      (∃ r off, i = .rvcBeqz r off ∧ s.x r.reg = 0) ∨
      (∃ r off, i = .rvcBnez r off ∧ s.x r.reg ≠ 0)
    (setsPc → exec i s = .next t) ∧
    (¬setsPc → t.pc = s.pc + 4 ∧ exec i s = .next { t with pc := s.pc + 2 } ∨
      i.access ≠ none ∧ (∃ e, t = s.trap e) ∧ exec i s = .next t)

/-! ## Control transfer -/

/-- R290 to R296, R435, R436: the branches compare addresses; only `pc` changes. -/
def Obligations.BranchResults : Prop :=
  ∀ (s : State) (rs1 rs2 : Reg) (r : CReg) (off : BitVec 12) (o : BitVec 8),
    let a := s.x rs1
    let b := s.x rs2
    let taken := s.pc + BitVec.ofInt 32 (2 * off.toInt)
    let takenC := s.pc + BitVec.ofInt 32 (2 * o.toInt)
    MovesOnly (exec (.beq rs1 rs2 off) s) s (if a = b then taken else s.pc + 4) ∧
    MovesOnly (exec (.bne rs1 rs2 off) s) s (if a = b then s.pc + 4 else taken) ∧
    MovesOnly (exec (.blt rs1 rs2 off) s) s (if a.toInt < b.toInt then taken else s.pc + 4) ∧
    MovesOnly (exec (.bge rs1 rs2 off) s) s (if a.toInt < b.toInt then s.pc + 4 else taken) ∧
    MovesOnly (exec (.bltu rs1 rs2 off) s) s (if a.toNat < b.toNat then taken else s.pc + 4) ∧
    MovesOnly (exec (.bgeu rs1 rs2 off) s) s (if a.toNat < b.toNat then s.pc + 4 else taken) ∧
    MovesOnly (exec (.rvcBeqz r o) s) s (if s.x r.reg = 0 then takenC else s.pc + 2) ∧
    MovesOnly (exec (.rvcBnez r o) s) s (if s.x r.reg = 0 then s.pc + 2 else takenC)

/-- R284, R285, R422, R434: CJAL and its two compressed forms. The link has the tag that
`PCCval` of R38 has; that this clears it at `pc + ilen` = 2^32 below exponent 24 is DEDUCED
(log 27). -/
def Obligations.JumpAndLinkResults : Prop :=
  ∀ (s : State) (cd : Reg) (off : BitVec 20) (o : BitVec 11),
    Jumps (exec (.cjal cd off) s) s cd 4 s.pcc (s.pc + BitVec.ofInt 32 (2 * off.toInt))
      s.mstatusMie ∧
    Jumps (exec (.rvcJ o) s) s .c0 2 s.pcc (s.pc + BitVec.ofInt 32 (2 * o.toInt)) s.mstatusMie ∧
    Jumps (exec (.rvcJal o) s) s .c1 2 s.pcc (s.pc + BitVec.ofInt 32 (2 * o.toInt)) s.mstatusMie

/-- R286, R442, R446: CJALR and its two compressed forms, to a target that passes the checks: the
link is written, the target is unsealed into PCC, and a sentry sets or clears MIE. The link has
the tag that `PCCval` of R38 has; that this clears it at `pc + ilen` = 2^32 below exponent 24 is DEDUCED
(log 27). -/
def Obligations.JumpRegisterResults : Prop :=
  ∀ (s : State) (cd cs1 : Reg) (imm : BitVec 12),
    let t := s.reg cs1
    let mie := if t.archotype = 2 ∨ t.archotype = 4 then false
      else if t.archotype = 3 ∨ t.archotype = 5 then true else s.mstatusMie
    let pcc : Cap := { t with otype := 0 }
    t.tag = true → t.isExec = true →
    (t.archotype ∈ validOtypes cs1 cd → (t.archotype = 0 ∨ imm = 0) →
      Jumps (exec (.cjalr cd cs1 imm) s) s cd 4 pcc
        ((t.a + imm.signExtend 32) &&& 0xFFFFFFFE) mie) ∧
    (t.archotype ∈ validOtypes cs1 .c0 →
      Jumps (exec (.rvcJr cs1) s) s .c0 2 pcc (t.a &&& 0xFFFFFFFE) mie) ∧
    (t.archotype ∈ validOtypes cs1 .c1 →
      Jumps (exec (.rvcJalr cs1) s) s .c1 2 pcc (t.a &&& 0xFFFFFFFE) mie)

/-- R287: which otypes a jump through a tagged executable capability accepts, by its two register
numbers alone; any other otype is a seal violation that names `cs1`. -/
def Obligations.SentryTable : Prop :=
  ∀ (s : State) (cd cs1 : Reg), (s.reg cs1).tag = true → (s.reg cs1).isExec = true →
    let ot := (s.reg cs1).archotype.toNat
    let valid : Prop :=
      if cs1 = .c1 ∧ cd = .c0 then ot = 4 ∨ ot = 5
      else if cd = .c1 then ot ≤ 3
      else ot ≤ 1
    (valid → ∃ t, exec (.cjalr cd cs1 0) s = .next t ∧ t.pcc = { s.reg cs1 with otype := 0 } ∧
      t.pc = (s.reg cs1).a &&& 0xFFFFFFFE) ∧
    (¬valid → TrapsCheri (exec (.cjalr cd cs1 0) s) s false cs1.bits.toNat 0x03)

/-- R286, R463: the exceptions of a jump through a capability, in order, in its three forms. -/
def Obligations.JumpRegisterTrapsInOrder : Prop :=
  ∀ (s : State) (i : Instr) (cd cs1 : Reg) (imm : BitVec 12),
    (i = .cjalr cd cs1 imm ∨ (cd = .c0 ∧ imm = 0 ∧ i = .rvcJr cs1) ∨
      (cd = .c1 ∧ imm = 0 ∧ i = .rvcJalr cs1)) →
    let t := s.reg cs1
    if t.tag = false then TrapsCheri (exec i s) s false cs1.bits.toNat 0x02
    else if t.archotype ∉ validOtypes cs1 cd then TrapsCheri (exec i s) s false cs1.bits.toNat 0x03
    else if t.archotype ≠ 0 ∧ imm ≠ 0 then TrapsCheri (exec i s) s false cs1.bits.toNat 0x03
    else if t.isExec = false then TrapsCheri (exec i s) s false cs1.bits.toNat 0x11
    else ∃ u, exec i s = .next u ∧ u.pcc = { t with otype := 0 } ∧ SameCause s u

/-- R284, R286, R287, R472: a call through an interrupt-disabling sentry and the return through its
link restore `pc`, PCC's permissions and bounds, and MIE. The link is tagged, but where the next
instruction would lie at 2^32 and the exponent of PCC is below 24 (DEDUCED, log 27). -/
def Obligations.SentryCallReturns : Prop :=
  ∀ (s t u : State) (cs1 : Reg), (s.reg cs1).tag = true → (s.reg cs1).isExec = true →
    (s.reg cs1).archotype = 2 → s.pcc.tag = true → s.pcc.isExec = true →
    s.pcc.wellFormed → s.pcc.base ≤ s.pc.toNat → s.pc.toNat + 4 ≤ s.pcc.top →
    s.pc.toNat % 2 = 0 → exec (.cjalr .c1 cs1 0) s = .next t →
    u.reg .c1 = t.reg .c1 → u.mstatusMie = t.mstatusMie →
    let returns : Prop := s.pc.toNat + 4 < 4294967296 ∨ s.pcc.exp = 24
    t.mstatusMie = false ∧ ((t.reg .c1).tag = true ↔ returns) ∧
      ((t.reg .c1).tag = true →
        ∃ v, exec (.cjalr .c0 .c1 0) u = .next v ∧ v.pc = s.pc + 4 ∧ v.pcc.tag = true ∧
          v.pcc.base = s.pcc.base ∧ v.pcc.top = s.pcc.top ∧ v.pcc.perms = s.pcc.perms ∧
          v.mstatusMie = s.mstatusMie)

/-- R298: what changes PCC, and what can leave it untagged. -/
def Obligations.WhatChangesPcc : Prop :=
  ∀ (s t : State) (i : Instr), exec i s = .next t →
    t.pcc = s.pcc ∨ (∃ e, t = s.trap e ∧ t.pcc = s.mtcc) ∨
      (i = .mret ∧ s.hasSr = true ∧ t.pcc = s.mepcc) ∨
      ∃ cs1, t.pcc = { s.reg cs1 with otype := 0 } ∧ t.pcc.tag = true ∧ t.pcc.isExec = true ∧
        ((∃ cd imm, i = .cjalr cd cs1 imm) ∨ i = .rvcJr cs1 ∨ i = .rvcJalr cs1)

/-- R472: what changes MIE: a write of `mstatus` under SR, a jump through a sentry of otype 2 to 5, a
trap, and MRET. -/
def Obligations.WhatChangesMie : Prop :=
  ∀ (s t : State) (i : Instr), exec i s = .next t → t.mstatusMie ≠ s.mstatusMie →
    (∃ e, t = s.trap e) ∨ (i = .mret ∧ s.hasSr = true ∧ t.mstatusMie = s.mstatusMpie) ∨
      (∃ f, s.csrForm i = some f ∧ f.addr = 0x300 ∧ f.writes = true ∧ s.hasSr = true) ∨
      ∃ cs1, ((∃ cd imm, i = .cjalr cd cs1 imm) ∨ i = .rvcJr cs1 ∨ i = .rvcJalr cs1) ∧
        ((t.mstatusMie = false ∧ ((s.reg cs1).archotype = 2 ∨ (s.reg cs1).archotype = 4)) ∨
          (t.mstatusMie = true ∧ ((s.reg cs1).archotype = 3 ∨ (s.reg cs1).archotype = 5)))

/-! ## Loads and stores -/

/-- R300, R463: the exceptions of every load and store, 32-bit and 16-bit, in order; when none
applies the access completes. -/
def Obligations.AccessTrapsInOrder : Prop :=
  ∀ (s : State) (i : Instr) (m : Access), i.access = some m →
    let auth := s.reg m.base
    let addr := s.accessAddr m
    let idx := m.base.bits.toNat
    if auth.tag = false then TrapsCheri (exec i s) s false idx 0x02
    else if auth.isSealed = true then TrapsCheri (exec i s) s false idx 0x03
    else if m.isLoad = true ∧ auth.has .ld = false then TrapsCheri (exec i s) s false idx 0x12
    else if m.isLoad = false ∧ auth.has .sd = false then TrapsCheri (exec i s) s false idx 0x13
    else if s.storesTagged m = true ∧ auth.has .mc = false then
      TrapsCheri (exec i s) s false idx 0x15
    else if addr.toNat < auth.base ∨ auth.top < addr.toNat + m.size then
      TrapsCheri (exec i s) s false idx 0x01
    else if addr.toNat % m.size ≠ 0 ∧ (m.isCap = true ∨ s.platform.misalignedDataOk = false) then
      Traps (exec i s) s (s.pccVal s.pc) (if m.isLoad then 4 else 6) addr
    else if (List.range m.size).any (fun k => (mapped s.platform (addr.toNat + k)).isNone) then
      Traps (exec i s) s (s.pccVal s.pc) (if m.isLoad then 5 else 7) addr
    else Completes (exec i s) s m.data m.len ∧
      (m.isLoad = true → ∃ t, exec i s = .next t ∧ SameMemory s t ∧ SameMark s t) ∧
      (m.isLoad = false → ∃ t, exec i s = .next t ∧ SameRegs s t)

/-- R301 to R305, R413, R440: the integer loads, of bytes in little-endian order. -/
def Obligations.IntegerLoadResults : Prop :=
  ∀ (s : State) (rd cs1 : Reg) (r q : CReg) (imm : BitVec 12) (u5 : BitVec 5) (u6 : BitVec 6),
    let a := (s.x cs1 + imm.signExtend 32).toNat
    let v := fun n => leValue (s.dataBytes a n)
    let aw := (s.x r.reg + BitVec.ofNat 32 (4 * u5.toNat)).toNat
    let asp := (s.x .c2 + BitVec.ofNat 32 (4 * u6.toNat)).toNat
    (Grants s cs1 .ld a 1 →
      WritesInt (exec (.clb rd cs1 imm) s) s rd (BitVec.ofInt 32 ((v 1 : Int).bmod 256)) 4 ∧
      WritesInt (exec (.clbu rd cs1 imm) s) s rd (BitVec.ofNat 32 (v 1)) 4) ∧
    (Grants s cs1 .ld a 2 → Aligned s a 2 →
      WritesInt (exec (.clh rd cs1 imm) s) s rd (BitVec.ofInt 32 ((v 2 : Int).bmod 65536)) 4 ∧
      WritesInt (exec (.clhu rd cs1 imm) s) s rd (BitVec.ofNat 32 (v 2)) 4) ∧
    (Grants s cs1 .ld a 4 → Aligned s a 4 →
      WritesInt (exec (.clw rd cs1 imm) s) s rd (BitVec.ofNat 32 (v 4)) 4) ∧
    (Grants s r.reg .ld aw 4 → Aligned s aw 4 →
      WritesInt (exec (.rvcLw q r u5) s) s q.reg
        (BitVec.ofNat 32 (leValue (s.dataBytes aw 4))) 2) ∧
    (Grants s .c2 .ld asp 4 → Aligned s asp 4 →
      WritesInt (exec (.rvcLwsp rd u6) s) s rd
        (BitVec.ofNat 32 (leValue (s.dataBytes asp 4))) 2)

/-- R131, R306 to R308, R417, R449: the integer stores write the low bytes of the address field,
clear the tag of every granule they touch, and update the mark. -/
def Obligations.IntegerStoreResults : Prop :=
  ∀ (s : State) (rs2 cs1 : Reg) (r q : CReg) (imm : BitVec 12) (u5 : BitVec 5) (u6 : BitVec 6),
    let a := s.x cs1 + imm.signExtend 32
    let aw := s.x r.reg + BitVec.ofNat 32 (4 * u5.toNat)
    let asp := s.x .c2 + BitVec.ofNat 32 (4 * u6.toNat)
    let low := fun (w : Word) (n : Nat) =>
      (List.range n).map fun k => BitVec.ofNat 8 (w.toNat / 256 ^ k)
    let tags := fun (addr : Word) (n g : Nat) =>
      s.tags.read g && !(touches addr.toNat n g && tagged s.platform g)
    (Grants s cs1 .sd a.toNat 1 →
      Stores (exec (.csb rs2 cs1 imm) s) s a (low (s.x rs2) 1) (tags a 1) 4) ∧
    (Grants s cs1 .sd a.toNat 2 → Aligned s a.toNat 2 →
      Stores (exec (.csh rs2 cs1 imm) s) s a (low (s.x rs2) 2) (tags a 2) 4) ∧
    (Grants s cs1 .sd a.toNat 4 → Aligned s a.toNat 4 →
      Stores (exec (.csw rs2 cs1 imm) s) s a (low (s.x rs2) 4) (tags a 4) 4) ∧
    (Grants s r.reg .sd aw.toNat 4 → Aligned s aw.toNat 4 →
      Stores (exec (.rvcSw q r u5) s) s aw (low (s.x q.reg) 4) (tags aw 4) 2) ∧
    (Grants s .c2 .sd asp.toNat 4 → Aligned s asp.toNat 4 →
      Stores (exec (.rvcSwsp rs2 u6) s) s asp (low (s.x rs2) 4) (tags asp 4) 2)

/-- R133, R140, R310, R414, R441: CLC and its two compressed forms. `keep` is what the authority leaves
of the permissions of a tagged value, and the revocation bit of the granule of its base clears its tag;
an untagged value is copied bit for bit. -/
def Obligations.CapabilityLoadResults : Prop :=
  ∀ (s : State) (cd cs1 : Reg) (r q : CReg) (imm : BitVec 12) (u5 : BitVec 5) (u6 : BitVec 6),
    let loaded := fun (auth : Cap) (a : Nat) =>
      let bits := fun n => BitVec.ofNat 32 (leValue (s.dataBytes n 4))
      let v := mkcap (tagged s.platform a && s.tags.read a) (bits (a + 4)) (bits a)
      let noGl := !auth.has .lg
      let noLg := !auth.has .lg && !v.isSealed
      let noSd := !auth.has .lm && !v.isSealed
      let keep : BitVec 12 :=
        0xFF0#12 ||| permVector false false false false false false false true (!noSd) (!noSd)
          (!noLg) (!noGl)
      if v.tag && auth.has .mc then
        { v with
          p := encperms (v.perms &&& keep)
          tag := match revBit s.platform (v.base / 8 * 8) with
            | none => true
            | some (ba, k) => !(s.byteAt .revocation ba).getLsbD k }
      else { v with tag := false }
    let a := s.x cs1 + imm.signExtend 32
    let ac := s.x r.reg + BitVec.ofNat 32 (8 * u5.toNat)
    let asp := s.x .c2 + BitVec.ofNat 32 (8 * u6.toNat)
    (Grants s cs1 .ld a.toNat 8 → a.toNat % 8 = 0 →
      WritesCap (exec (.clc cd cs1 imm) s) s cd (loaded (s.reg cs1) a.toNat) 4) ∧
    (Grants s r.reg .ld ac.toNat 8 → ac.toNat % 8 = 0 →
      WritesCap (exec (.rvcLc q r u5) s) s q.reg (loaded (s.reg r.reg) ac.toNat) 2) ∧
    (Grants s .c2 .ld asp.toNat 8 → asp.toNat % 8 = 0 →
      WritesCap (exec (.rvcLcsp cd u6) s) s cd (loaded (s.reg .c2) asp.toNat) 2)

/-- R134, R311, R418, R450: CSC and its two compressed forms. The tag stored is that of the value,
cleared for a local value or a backward sentry when the authority lacks SL; a granule with a byte of a
device keeps no tag (log 8). -/
def Obligations.CapabilityStoreResults : Prop :=
  ∀ (s : State) (cs2 cs1 : Reg) (r q : CReg) (imm : BitVec 12) (u5 : BitVec 5) (u6 : BitVec 6),
    let bytes := fun (v : Cap) =>
      (List.range 4).map (fun k => BitVec.ofNat 8 (v.a.toNat / 256 ^ k)) ++
        (List.range 4).map (fun k => BitVec.ofNat 8 (v.high.toNat / 256 ^ k))
    let backward := fun (v : Cap) => v.isExec && (v.otype == 4 || v.otype == 5)
    let stored := fun (auth v : Cap) => v.tag && (auth.has .sl || (v.has .gl && !backward v))
    let tags := fun (addr : Word) (t : Bool) (g : Nat) =>
      if g = addr.toNat ∧ tagged s.platform g = true then t && !deviceGranule s.platform g
      else s.tags.read g
    let a := s.x cs1 + imm.signExtend 32
    let ac := s.x r.reg + BitVec.ofNat 32 (8 * u5.toNat)
    let asp := s.x .c2 + BitVec.ofNat 32 (8 * u6.toNat)
    (Grants s cs1 .sd a.toNat 8 → a.toNat % 8 = 0 →
      ((s.reg cs2).tag = true → (s.reg cs1).has .mc = true) →
      Stores (exec (.csc cs2 cs1 imm) s) s a (bytes (s.reg cs2))
        (tags a (stored (s.reg cs1) (s.reg cs2))) 4) ∧
    (Grants s r.reg .sd ac.toNat 8 → ac.toNat % 8 = 0 →
      ((s.reg q.reg).tag = true → (s.reg r.reg).has .mc = true) →
      Stores (exec (.rvcSc q r u5) s) s ac (bytes (s.reg q.reg))
        (tags ac (stored (s.reg r.reg) (s.reg q.reg))) 2) ∧
    (Grants s .c2 .sd asp.toNat 8 → asp.toNat % 8 = 0 →
      ((s.reg cs2).tag = true → (s.reg .c2).has .mc = true) →
      Stores (exec (.rvcScsp cs2 u6) s) s asp (bytes (s.reg cs2))
        (tags asp (stored (s.reg .c2) (s.reg cs2))) 2)

/-- R135: only a store of a tagged capability with CSC sets a tag, and a CSC whose value is untagged,
or loses its tag on the way, writes tag 0. -/
def Obligations.OnlyCscSetsATag : Prop :=
  (∀ (s t : State) (i : Instr) (g : Nat), exec i s = .next t → t.tags.read g = true →
    s.tags.read g = false →
    ∃ m, i.access = some m ∧ m.isLoad = false ∧ m.isCap = true ∧ (s.reg m.data).tag = true ∧
      g = (s.accessAddr m).toNat) ∧
  ∀ (s : State) (i : Instr) (m : Access), i.access = some m → m.isLoad = false → m.isCap = true →
    let a := (s.accessAddr m).toNat
    let v := s.reg m.data
    tagged s.platform a = true → Grants s m.base .sd a 8 → a % 8 = 0 →
    (v.tag = true → (s.reg m.base).has .mc = true) →
    (v.tag = false ∨ (s.reg m.base).has .sl = false ∧
      (v.has .gl = false ∨ v.archotype = 4 ∨ v.archotype = 5)) →
    ∃ t, exec i s = .next t ∧ t.tags.read a = false

/-- R145, R146: the mark moves down to a store's lowest address, rounded down to 16, exactly when
that address is at or above the base and below the mark; no other instruction but a write of `mshwm`
changes it, and it never falls below the base. -/
def Obligations.StackHighWaterMark : Prop :=
  ∀ (s t : State) (i : Instr), exec i s = .next t →
    (i.access = none → t.shwmWord ≠ s.shwmWord →
      ∃ f, s.csrForm i = some f ∧ f.writes = true ∧ f.addr = 0xBC1) ∧
    (∀ m, i.access = some m →
      (m.isLoad = true ∨ (∃ e, t = s.trap e) → t.shwmWord = s.shwmWord) ∧
      (m.isLoad = false → (¬∃ e, t = s.trap e) →
        t.shwmWord.toNat =
          if s.shwmbWord.toNat ≤ (s.accessAddr m).toNat ∧
              (s.accessAddr m).toNat < s.shwmWord.toNat then
            (s.accessAddr m).toNat / 16 * 16
          else s.shwmWord.toNat) ∧
      (s.shwmbWord.toNat ≤ s.shwmWord.toNat → t.shwmbWord.toNat ≤ t.shwmWord.toNat))

/-- R42, R312: CLC then CSC of the same register copies 64 bits and the tag of a granule, unless the
capability in it has been revoked. -/
def Obligations.CapabilityCopyIsExact : Prop :=
  ∀ (s t : State) (cd cs1 cs2 : Reg) (imm imm' : BitVec 12), cd ≠ .c0 → cd ≠ cs2 →
    let a := (s.x cs1 + imm.signExtend 32).toNat
    let b := (s.x cs2 + imm'.signExtend 32).toNat
    Grants s cs1 .ld a 8 → Grants s cs2 .sd b 8 → a % 8 = 0 → b % 8 = 0 →
    (s.reg cs1).has .mc = true → (s.reg cs1).has .lm = true → (s.reg cs1).has .lg = true →
    (s.reg cs2).has .mc = true → (s.reg cs2).has .sl = true →
    (∀ k, k < 8 → mapped s.platform (b + k) = some .ram) → tagged s.platform b = true →
    s.revoked (s.loadCap a).base = false → exec (.clc cd cs1 imm) s = .next t →
    ∃ u, exec (.csc cd cs2 imm') t = .next u ∧ u.loadCap b = s.loadCap a

/-- R121, R123, R150: a load after a store to the same address returns what was stored: the word, or
the part of it that a narrower load reads. -/
def Obligations.LoadAfterStore : Prop :=
  ∀ (s t : State) (rs2 cs1 rd : Reg) (imm : BitVec 12), rd ≠ .c0 →
    let a := (s.x cs1 + imm.signExtend 32).toNat
    Grants s cs1 .sd a 4 → (s.reg cs1).has .ld = true → Aligned s a 4 →
    (∀ k, k < 4 → mapped s.platform (a + k) = some .ram) →
    exec (.csw rs2 cs1 imm) s = .next t →
    (∃ u, exec (.clw rd cs1 imm) t = .next u ∧ u.x rd = s.x rs2) ∧
    (∃ u, exec (.clhu rd cs1 imm) t = .next u ∧ u.x rd = s.x rs2 &&& 0xFFFF) ∧
    (∃ u, exec (.clbu rd cs1 imm) t = .next u ∧ u.x rd = s.x rs2 &&& 0xFF)

/-! ## System instructions -/

/-- R330, R331, R334, R152: FENCE and WFI only move on, in every mode; after FENCE.I, which changes
nothing else, every fetch sees memory as it is. A parcel that no store has touched since the last FENCE.I
is the one in memory; one that the latest store touched, where no earlier one did, is the one before that
store or the one after it (the record of the stores is the model's own, log 11). -/
def Obligations.FenceResults : Prop :=
  ∀ (s : State) (fm pred succ : BitVec 4) (imm : BitVec 12) (rs1 rd : BitVec 5),
    MovesOnly (exec (.fence fm pred succ rs1 rd) s) s (s.pc + 4) ∧
    MovesOnly (exec .wfi s) s (s.pc + 4) ∧
    ∃ t, exec (.fencei imm rs1 rd) s = .next t ∧
      t = { s with pc := s.pc + 4, codeMem := s.mem, unfenced := [] } ∧
      (∀ a, t.fetchParcel a = t.byteAt .fetch (a + 1) ++ t.byteAt .fetch a) ∧
      (s.canonical → ∀ a, (∀ st, st ∈ s.unfenced → st.touches a = false) →
        s.fetchParcel a = s.byteAt .fetch (a + 1) ++ s.byteAt .fetch a) ∧
      ∀ st older m a, s.unfenced = st :: older → (∀ o, o ∈ older → o.touches a = false) →
        m = writeBytes s.platform s.codeMem st.addr st.bytes →
        s.fetchParcel a = State.newParcel { s with mem := s.codeMem } a ∨
          s.fetchParcel a = State.newParcel { s with mem := m } a

/-- R332, R333, R445, R480: ECALL and the two breakpoints take their exception, and need no
permission. -/
def Obligations.EnvironmentCallsTrap : Prop :=
  ∀ (s : State), Traps (exec .ecall s) s (s.pccVal s.pc) 11 0 ∧
    Traps (exec .ebreak s) s (s.pccVal s.pc) 3 s.pc ∧
    Traps (exec .rvcEbreak s) s (s.pccVal s.pc) 3 s.pc

/-- R336, R482: MRET with SR restores MIE from MPIE, sets MPIE, and installs MEPCC; without SR it is an
SR violation that names PCC. -/
def Obligations.MretResults : Prop :=
  ∀ (s : State),
    (s.hasSr = true → ∃ t, exec .mret s = .next t ∧ t.pcc = s.mepcc ∧ t.pc = s.mepcc.a ∧
      t.mstatusMie = s.mstatusMpie ∧ t.mstatusMpie = true ∧ SameRegs s t ∧ SameMemory s t ∧
      SameScrs s t ∧ SameCause s t ∧ SameMark s t ∧ SameCsrs s t ∧ SameRest s t) ∧
    (s.hasSr = false → TrapsCheri (exec .mret s) s true 0 0x18)

/-- R480, R482, R486: MRET in a handler that runs under SR, and that has left MEPCC and MPIE as the trap
wrote them, resumes the trapping instruction under its own PCC with its own MIE. -/
def Obligations.TrapThenMretResumes : Prop :=
  ∀ (s h : State) (e : Exc), e ≠ .cheri .bounds .pcc → s.pcc.representable s.pc = true →
    h.mepcc = (s.trap e).mepcc → h.mstatusMpie = (s.trap e).mstatusMpie → h.hasSr = true →
    ∃ t, exec .mret h = .next t ∧ t.pc = s.pc ∧ t.mstatusMie = s.mstatusMie ∧
      t.pcc.tag = s.pcc.tag ∧ t.pcc.base = s.pcc.base ∧ t.pcc.top = s.pcc.top ∧
      t.pcc.perms = s.pcc.perms ∧ t.pcc.otype = s.pcc.otype

/-- R340 to R346: a CSR instruction that names a register the platform has, does not write a read-only
one, and has SR or reads the allowlist, completes: it writes the new value, where its form writes,
and delivers the old one. -/
def Obligations.CsrInstructionsComplete : Prop :=
  ∀ (s : State) (i : Instr) (f : CsrForm) (c : Csr), s.csrForm i = some f →
    csrAt s.platform f.addr = some c → (f.writes = true → readOnlyAddr f.addr = false) →
    (s.hasSr = true ∨ f.writes = false ∧ 0xC00 ≤ f.addr.toNat ∧ f.addr.toNat < 0xF00) →
    ∃ t, exec i s = .next t ∧ t.pc = s.pc + 4 ∧ t.pcc = s.pcc ∧
      t.reg f.rd = (if f.rd = .c0 then Cap.null else mkcap false 0 (s.readCsr c)) ∧
      SameRegsBut f.rd s t ∧ SameMemory s t ∧ SameScrs s t ∧ SameRest s t ∧
      (f.writes = false → SameSystem s t) ∧
      (f.writes = true → t.setReg f.rd .null =
        ((s.writeCsr c (f.op.apply (s.readCsr c) f.operand)).setReg f.rd .null).advance 4)

/-- R91 to R102: what the CSRs read as under SR. A counter, the `NUM_HPM` event counters among them,
reads as a draw (log 3). -/
def Obligations.CsrReadValues : Prop :=
  ∀ (s : State) (rd : Reg), s.hasSr = true →
    let reads := fun (addr : BitVec 12) (v : Word) =>
      WritesInt (exec (.csrrs rd addr .c0) s) s rd v 4
    let mask : Word := 0x888#32 ||| wordOfBits (s.platform.localIrqs.map fun k => 16 + k.val)
    reads 0x300 (BitVec.ofNat 32 (0x1800 + 8 * s.mstatusMie.toNat + 128 * s.mstatusMpie.toNat)) ∧
    reads 0x301 (BitVec.ofNat 32 (0x40800014 + 4096 * s.platform.hasM.toNat)) ∧
    reads 0x304 (s.mie &&& mask) ∧ reads 0x344 (s.mip &&& mask) ∧ reads 0x340 s.mscratch ∧
    reads 0x343 s.mtval ∧
    (s.mcause = 0x1C ∨ s.mcause = 11 ∨ (1 ≤ s.mcause.toNat ∧ s.mcause.toNat ≤ 7) ∨
      (∃ k, k ∈ irqOrder s.platform ∧ s.mcause = 0x80000000#32 ||| BitVec.ofNat 32 k) →
      reads 0x342 s.mcause) ∧
    reads 0xBC1 (BitVec.ofNat 32 (16 * s.mshwm.toNat)) ∧
    reads 0xBC2 (BitVec.ofNat 32 (16 * s.mshwmb.toNat)) ∧
    reads 0xF11 s.platform.mvendorid ∧ reads 0xF12 s.platform.marchid ∧
    reads 0xF13 s.platform.mimpid ∧ reads 0xF14 s.platform.mhartid ∧
    ∀ addr : BitVec 12, addr ∈ [0xB00#12, 0xB80#12, 0xB02#12, 0xB82#12, 0xC00#12, 0xC80#12,
      0xC01#12, 0xC81#12, 0xC02#12, 0xC82#12] ∨
      (∃ n : Nat, n < s.platform.numHpm.val ∧
        (addr = 0xC03#12 + BitVec.ofNat 12 n ∨ addr = 0xC83#12 + BitVec.ofNat 12 n)) →
      ∃ v, reads addr v

/-- R92 to R102, R340 step 5: what CSRRW leaves in each writable CSR. Three clauses are the model's
choice: a platform's writable bits of `mip` are local ones (log 10), `mcause` keeps a value that is no
cause of this machine (log 12), and a counter holds the half written (log 3). -/
def Obligations.CsrWriteEffects : Prop :=
  ∀ (s : State) (rd rs1 : Reg), s.hasSr = true →
    let v := s.x rs1
    let mask : Word := 0x888#32 ||| wordOfBits (s.platform.localIrqs.map fun k => 16 + k.val)
    let writable : Word := s.platform.mipWritable &&& mask &&& 0xFFFF0000
    let leaves := fun (addr : BitVec 12) (t : State) =>
      ∃ old, exec (.csrrw rd addr rs1) s =
        .next { t with pc := s.pc + 4, regs := (s.setReg rd (mkcap false 0 old)).regs }
    leaves 0x300 { s with mstatusMie := v.getLsbD 3, mstatusMpie := v.getLsbD 7 } ∧
    leaves 0x301 s ∧
    leaves 0x304 { s with mie := v &&& mask } ∧
    leaves 0x344 { s with mip := (s.mip &&& ~~~writable) ||| (v &&& writable) } ∧
    leaves 0x340 { s with mscratch := v } ∧
    leaves 0x342 { s with mcause := v } ∧
    leaves 0x343 { s with mtval := v } ∧
    leaves 0xBC1 { s with mshwm := BitVec.ofNat 28 (v.toNat / 16) } ∧
    leaves 0xBC2 { s with mshwmb := BitVec.ofNat 28 (v.toNat / 16) } ∧
    leaves 0xB00 { s with mcycle := s.mcycle.extractLsb' 32 32 ++ v } ∧
    leaves 0xB80 { s with mcycle := v ++ s.mcycle.extractLsb' 0 32 } ∧
    leaves 0xB02 { s with minstret := s.minstret.extractLsb' 32 32 ++ v } ∧
    leaves 0xB82 { s with minstret := v ++ s.minstret.extractLsb' 0 32 }

/-- R85, R103, R340: the exceptions of the CSR instructions, in order: no such register (those of
`mtvec` and `mepc` among them) or a write of a read-only one is illegal, with or without SR; without
SR everything but a read of the counters is refused. -/
def Obligations.CsrTrapsInOrder : Prop :=
  ∀ (s : State) (i : Instr) (f : CsrForm), s.csrForm i = some f →
    if csrAt s.platform f.addr = none ∨ f.addr = 0x305 ∨ f.addr = 0x341 ∨
        f.writes = true ∧ readOnlyAddr f.addr = true then
      TrapsIllegal (exec i s) s (encode i).bits
    else if s.hasSr = false ∧ ¬(f.writes = false ∧ 0xC00 ≤ f.addr.toNat ∧ f.addr.toNat < 0xF00) then
      if (f.addr = 0xBC1 ∨ f.addr = 0xBC2) ∧ s.platform.shwmNoAsrCause = .illegal then
        TrapsIllegal (exec i s) s (encode i).bits
      else TrapsCheri (exec i s) s true 0 0x18
    else ∃ t, exec i s = .next t ∧ t.pc = s.pc + 4 ∧ t.pcc = s.pcc

/-- R82, R83: what CSpecialRW leaves in MTCC and MEPCC; the register read is the whole old value. -/
def Obligations.TrapScrWritesLegalised : Prop :=
  ∀ (s : State) (cd cs1 : Reg), s.hasSr = true → cs1 ≠ .c0 →
    let v := s.reg cs1
    (∃ t, exec (.cspecialrw cd .mtcc cs1) s = .next t ∧
      t = { s with
        regs := (s.setReg cd s.mtcc).regs
        pc := s.pc + 4
        mtcc := { v with
          a := BitVec.ofNat 32 (v.a.toNat / 4 * 4)
          tag := v.tag && v.a.toNat % 4 == 0 && !v.isSealed && v.isExec } } ∧
      (t.mtcc.tag = true → t.mtcc.isSealed = false ∧ t.mtcc.isExec = true ∧
        t.mtcc.a.toNat % 4 = 0)) ∧
    ∃ t, exec (.cspecialrw cd .mepcc cs1) s = .next t ∧
      t = { s with
        regs := (s.setReg cd s.mepcc).regs
        pc := s.pc + 4
        mepcc := { v with
          a := BitVec.ofNat 32 (v.a.toNat / 2 * 2)
          tag := v.tag && v.a.toNat % 2 == 0 && !v.isSealed && v.isExec } }

/-- R84, R348: CSpecialRW stores MTDC and MScratchC unchanged, writes nothing when the `cs1` field is 0,
and without SR is an SR violation that names the register. -/
def Obligations.SpecialRegisterResults : Prop :=
  ∀ (s : State) (cd cs1 : Reg) (n : Scr),
    (s.hasSr = true → WritesCap (exec (.cspecialrw cd n .c0) s) s cd (s.scr n) 4) ∧
    (s.hasSr = true → cs1 ≠ .c0 →
      exec (.cspecialrw cd .mtdc cs1) s = .next { s with
        regs := (s.setReg cd s.mtdc).regs, pc := s.pc + 4, mtdc := s.reg cs1 } ∧
      exec (.cspecialrw cd .mscratchc cs1) s = .next { s with
        regs := (s.setReg cd s.mscratchc).regs, pc := s.pc + 4, mscratchc := s.reg cs1 }) ∧
    (s.hasSr = false → TrapsCheri (exec (.cspecialrw cd n cs1) s) s true n.bits.toNat 0x18)

/-- R349, R472: without SR an instruction that takes no exception leaves the SCRs, the cause registers,
MPIE and every CSR but the mark and `mstatus.MIE`, which a sentry may change, as they were. -/
def Obligations.NoSystemChangeWithoutSr : Prop :=
  ∀ (s t : State) (i : Instr), exec i s = .next t → s.hasSr = false → (¬∃ e, t = s.trap e) →
    SameScrs s t ∧ SameCause s t ∧ SameCsrs s t ∧ t.mstatusMpie = s.mstatusMpie

/-! ## Capability instructions -/

/-- R38, R68, R360 to R364, R411, R424: the instructions that change an address. -/
def Obligations.AddressChangeResults : Prop :=
  ∀ (s : State) (cd cs1 rs2 : Reg) (r : CReg) (imm : BitVec 12) (upper : BitVec 20) (u : BitVec 8)
    (n : BitVec 6),
    let moved := fun (c : Cap) (a : Word) => { c with
      a := a
      tag := c.tag && !c.isSealed &&
        decide ({ c with a := a }.base = c.base ∧ { c with a := a }.top = c.top) : Cap }
    let c := s.reg cs1
    WritesCap (exec (.cincaddr cd cs1 rs2) s) s cd (moved c (c.a + s.x rs2)) 4 ∧
    WritesCap (exec (.cincaddrimm cd cs1 imm) s) s cd (moved c (c.a + imm.signExtend 32)) 4 ∧
    WritesCap (exec (.csetaddr cd cs1 rs2) s) s cd (moved c (s.x rs2)) 4 ∧
    WritesCap (exec (.auipcc cd upper) s) s cd
      (moved s.pcc (s.pc + BitVec.ofInt 32 (2048 * upper.toInt))) 4 ∧
    WritesCap (exec (.auicgp cd upper) s) s cd
      (moved (s.reg .c3) (s.x .c3 + BitVec.ofInt 32 (2048 * upper.toInt))) 4 ∧
    WritesCap (exec (.rvcAddi4spn r u) s) s r.reg
      (moved (s.reg .c2) (s.x .c2 + BitVec.ofNat 32 (4 * u.toNat))) 2 ∧
    WritesCap (exec (.rvcAddi16sp n) s) s .c2
      (moved (s.reg .c2) (s.x .c2 + BitVec.ofInt 32 (16 * n.toInt))) 2

/-- R365 to R368: the set-bounds instructions; what the bounds become is SetBoundsDecoded. -/
def Obligations.SetBoundsResults : Prop :=
  ∀ (s : State) (cd cs1 rs2 : Reg) (imm : BitVec 12),
    let c := s.reg cs1
    let fits := fun (l : Word) =>
      c.tag && !c.isSealed && decide (c.base ≤ c.a.toNat ∧ c.a.toNat + l.toNat ≤ c.top)
    let l := s.x rs2
    let lImm := BitVec.ofNat 32 imm.toNat
    WritesCap (exec (.csetbounds cd cs1 rs2) s) s cd { c.setBounds c.a l with tag := fits l } 4 ∧
    WritesCap (exec (.csetboundsexact cd cs1 rs2) s) s cd
      { c.setBounds c.a l with tag := fits l && boundsExact c.a l } 4 ∧
    WritesCap (exec (.csetboundsimm cd cs1 imm) s) s cd
      { c.setBounds c.a lImm with tag := fits lImm } 4

/-- R369: CAndPerm. On a sealed operand the tag is cleared, unless the parameter
`CANDPERM_SEALED_GL_OK` holds and nothing but GL is removed (log 16). -/
def Obligations.AndPermResults : Prop :=
  ∀ (s : State) (cd cs1 rs2 : Reg),
    let c := s.reg cs1
    let p := encperms (c.perms &&& BitVec.ofNat 12 (s.x rs2).toNat)
    (s.platform.candpermSealedGlOk = false →
      WritesCap (exec (.candperm cd cs1 rs2) s) s cd
        { c with p := p, tag := c.tag && !c.isSealed } 4) ∧
    (s.platform.candpermSealedGlOk = true →
      WritesCap (exec (.candperm cd cs1 rs2) s) s cd
        { c with p := p, tag := c.tag && (!c.isSealed || permsOf p ||| 1 == c.perms ||| 1) } 4)

/-- R371, R372: CSeal and CUnseal; a failed check clears the tag and never traps. -/
def Obligations.SealResults : Prop :=
  ∀ (s : State) (cd cs1 cs2 : Reg),
    let c := s.reg cs1
    let k := s.reg cs2
    let named := fun (q : Perm) =>
      k.tag && !k.isSealed && k.has q && decide (k.base ≤ k.a.toNat ∧ k.a.toNat + 1 ≤ k.top)
    let allowed : Bool :=
      if c.isExec then decide (1 ≤ k.a.toNat ∧ k.a.toNat ≤ 7)
      else decide (9 ≤ k.a.toNat ∧ k.a.toNat ≤ 15)
    let otype := if c.otype = 0 then 0 else if c.isExec then c.otype.toNat else 8 + c.otype.toNat
    WritesCap (exec (.cseal cd cs1 cs2) s) s cd
      { c with otype := BitVec.ofNat 3 k.a.toNat, tag := c.tag && !c.isSealed && named .se && allowed }
      4 ∧
    WritesCap (exec (.cunseal cd cs1 cs2) s) s cd
      { c with
        otype := 0
        p := if k.has .gl then c.p else encperms (c.perms &&& 0xFFE)
        tag := c.tag && c.isSealed && named .us && decide (k.a.toNat = otype) } 4

/-- R373 to R375, R444: moving a capability, clearing its tag, setting its metadata word. -/
def Obligations.MoveResults : Prop :=
  ∀ (s : State) (cd cs1 rs2 : Reg),
    let c := s.reg cs1
    let m := s.x rs2
    WritesCap (exec (.cmove cd cs1) s) s cd c 4 ∧
    WritesCap (exec (.rvcMv cd cs1) s) s cd c 2 ∧
    WritesCap (exec (.ccleartag cd cs1) s) s cd { c with tag := false } 4 ∧
    ∃ v : Cap, WritesCap (exec (.csethigh cd cs1 rs2) s) s cd v 4 ∧ v.tag = false ∧ v.a = c.a ∧
      v.high = m

/-- R390 to R401: the queries of a capability and the comparisons of two. -/
def Obligations.InspectResults : Prop :=
  ∀ (s : State) (rd cs1 cs2 : Reg),
    let a := s.reg cs1
    let b := s.reg cs2
    let num := fun (n : Nat) => BitVec.ofNat 32 n
    let bool := fun (t : Bool) => if t then 1#32 else 0#32
    WritesInt (exec (.cgetperm rd cs1) s) s rd (num a.perms.toNat) 4 ∧
    WritesInt (exec (.cgettype rd cs1) s) s rd
      (num (if a.otype = 0 then 0 else if a.isExec then a.otype.toNat else 8 + a.otype.toNat)) 4 ∧
    WritesInt (exec (.cgetbase rd cs1) s) s rd (num a.base) 4 ∧
    WritesInt (exec (.cgetlen rd cs1) s) s rd
      (num (if a.top < a.base then 0 else min (a.top - a.base) 0xFFFFFFFF)) 4 ∧
    WritesInt (exec (.cgettop rd cs1) s) s rd (num (min a.top 0xFFFFFFFF)) 4 ∧
    WritesInt (exec (.cgettag rd cs1) s) s rd (bool a.tag) 4 ∧
    WritesInt (exec (.cgetaddr rd cs1) s) s rd a.a 4 ∧
    WritesInt (exec (.cgethigh rd cs1) s) s rd
      (num (a.r.toNat * 2 ^ 31 + a.p.toNat * 2 ^ 25 + a.otype.toNat * 2 ^ 22 + a.e.toNat * 2 ^ 18 +
        a.t.toNat * 2 ^ 9 + a.b.toNat)) 4 ∧
    WritesInt (exec (.csub rd cs1 cs2) s) s rd
      (BitVec.ofInt 32 ((a.a.toNat : Int) - (b.a.toNat : Int))) 4 ∧
    WritesInt (exec (.ctestsubset rd cs1 cs2) s) s rd
      (bool (decide (a.tag = b.tag ∧ a.base ≤ b.base ∧ b.top ≤ a.top ∧
        (b.perms &&& ~~~a.perms) = 0))) 4 ∧
    WritesInt (exec (.csetequalexact rd cs1 cs2) s) s rd
      (bool (decide (a.tag = b.tag ∧ a.high = b.high ∧ a.a = b.a))) 4

/-- R402, R403 and, from the spec's own inference in R405, the exponent: CRAM and CRRL. The exponent of a length is the least that can hold it: `e`
of 0..14 or 24 with the length rounded up to 2^e at most 511 * 2^e. A base so aligned, with the length
of CRRL, has exact bounds. -/
def Obligations.RepresentableLengthResults : Prop :=
  ∀ (s : State) (rd rs1 : Reg),
    let l := (s.x rs1).toNat
    let holds := fun (e : Nat) => (l + 2 ^ e - 1) / 2 ^ e ≤ 511
    ∃ e, (e ≤ 14 ∨ e = 24) ∧ holds e ∧ (∀ d, d < e → d ≤ 14 → ¬holds d) ∧
      (511 * 2 ^ 14 < l ↔ e = 24) ∧
      WritesInt (exec (.cram rd rs1) s) s rd (BitVec.ofNat 32 (2 ^ 32 - 2 ^ e)) 4 ∧
      WritesInt (exec (.crrl rd rs1) s) s rd
        (BitVec.ofNat 32 ((l + 2 ^ e - 1) / 2 ^ e * 2 ^ e)) 4 ∧
      ∀ b : Word, b.toNat % 2 ^ e = 0 →
        boundsExact b (BitVec.ofNat 32 ((l + 2 ^ e - 1) / 2 ^ e * 2 ^ e)) = true

/-- R47: the encoding of a permission set, step by step; it never adds a permission, and reads back
every field. -/
def Obligations.PermissionEncoding : Prop :=
  (∀ (m : BitVec 12),
    let has := fun (q : Perm) => hasPerm m q
    let field := fun (hi b2 b1 b0 : Nat) =>
      (encperms m).toNat = (has .gl).toNat * 32 + hi * 8 + b2 * 4 + b1 * 2 + b0
    let bit := fun (q : Perm) => (has q).toNat
    (if has .ex && has .ld && has .mc then field 1 (bit .sr) (bit .lm) (bit .lg)
      else if has .ld && has .mc && has .sd then field 3 (bit .sl) (bit .lm) (bit .lg)
      else if has .ld && has .mc then field 2 1 (bit .lm) (bit .lg)
      else if has .sd && has .mc then field 2 0 0 0
      else if has .ld || has .sd then field 2 0 (bit .ld) (bit .sd)
      else field 0 (bit .u0) (bit .se) (bit .us)) ∧
    ∀ q : Perm, hasPerm (permsOf (encperms m)) q = true → has q = true) ∧
  ∀ p : BitVec 6, encperms (permsOf p) = p

/-- R67: for a capability that satisfies the invariant of R64, the representable addresses are those
from its base up to 2^(e+9) above it, or all when `e` is 24; its top is one where it is an address. -/
def Obligations.RepresentableRange : Prop :=
  ∀ (c : Cap), c.wellFormed →
    (∀ a : Word, c.representable a = true ↔
      c.exp = 24 ∨ c.base ≤ a.toNat ∧ a.toNat < c.base + 2 ^ (c.exp + 9)) ∧
    (c.top < 4294967296 → c.representable (BitVec.ofNat 32 c.top) = true)

/-- R69, R70: the bounds of a set-bounds result: the requested range rounded outward to the chosen
alignment, which is exact exactly when both ends are aligned; the address stays representable. -/
def Obligations.SetBoundsDecoded : Prop :=
  ∀ (c : Cap) (l : Word),
    let u := 2 ^ boundsExp c.a l
    let r := c.setBounds c.a l
    r.base = c.a.toNat / u * u ∧
      r.top = (c.a.toNat + l.toNat + u - 1) / u * u % 8589934592 ∧
      (boundsExact c.a l = true ↔ r.base = c.a.toNat ∧ r.top = c.a.toNat + l.toNat) ∧
      (r.exp = 24 ∨ r.base ≤ c.a.toNat ∧ c.a.toNat < r.base + 2 ^ (r.exp + 9))

/-- R70, R377: a requested range inside the bounds of a capability that satisfies R64 gives a result
whose rounded bounds are inside them too, and which satisfies R64. -/
def Obligations.SetBoundsMonotone : Prop :=
  ∀ (c : Cap) (l : Word), c.wellFormed → c.base ≤ c.a.toNat → c.a.toNat + l.toNat ≤ c.top →
    c.base ≤ (c.setBounds c.a l).base ∧ (c.setBounds c.a l).top ≤ c.top ∧
      (c.setBounds c.a l).wellFormed

/-! ## Reset and invariants -/

/-- R114: reset, on every platform. What R114 leaves unspecified holds whatever the reset draws, and
the low four bits of the two mark registers are 0. -/
def Obligations.ResetState : Prop :=
  ∀ (p : Platform) (d : ResetDraws),
    let s := State.resetOn p d
    (∀ r, s.reg r = Cap.null) ∧
      s.pcc.tag = true ∧ s.pcc.high = 0x5E3E0000#32 ∧ s.pcc.a = s.pc ∧
      s.pc.toNat = 2 * p.resetPcHigh.toNat ∧ s.pcc.base = 0 ∧ s.pcc.top = 4294967296 ∧
      s.mtcc = mkcap true 0x5E3E0000 0 ∧ s.mtdc = mkcap true 0x7E3E0000 0 ∧
      s.mscratchc = mkcap true 0x4E3E0000 0 ∧ s.mepcc = mkcap true 0x5E3E0000 0 ∧
      (∀ n, (s.scr n).base = 0 ∧ (s.scr n).top = 4294967296) ∧
      s.mtcc.perms = 0x1EB#12 ∧ s.mtdc.perms = 0x07F#12 ∧ s.mscratchc.perms = 0xE01#12 ∧
      s.mstatusMie = false ∧ s.hasSr = true ∧ s.interrupt = none ∧
      s.mstatusMpie = d.mpie ∧ s.mie = d.mie ∧ s.mip = d.mip ∧ s.mcause = d.mcause ∧
      s.mtval = d.mtval ∧ s.mscratch = d.mscratch ∧
      s.shwmWord = d.mshwm ++ 0#4 ∧ s.shwmbWord = d.mshwmb ++ 0#4 ∧
      s.mcycle = d.mcycle ∧ s.minstret = d.minstret ∧ s.time = d.time ∧ s.hpm = d.hpm ∧
      s.mem = d.memory ∧ s.tags = d.tagMemory ∧
      (s.readCsr .misa).toNat = 0x40800014 + 4096 * p.hasM.toNat ∧
      s.readCsr .mvendorid = p.mvendorid ∧ s.readCsr .marchid = p.marchid ∧
      s.readCsr .mimpid = p.mimpid ∧ s.readCsr .mhartid = p.mhartid

/-- What the model adds (log 4, 11): every reset leaves memory, the record of stores and the tags in
canonical form, PCC, MTCC and MEPCC sound, and, where it draws no tag, every tagged capability well
formed (R64, R523). -/
def Obligations.ResetInvariants : Prop :=
  ∀ (p : Platform) (d : ResetDraws),
    (State.resetOn p d).canonical ∧ (State.resetOn p d).pccSound ∧
      (d.tags = [] → (State.resetOn p d).capsWellFormed)

/-- Every step keeps memory and tags in canonical form (log 4), and memory equal to memory at the last
FENCE.I with every store since then made (log 11). -/
def Obligations.CanonicalKept : Prop :=
  ∀ (s t : State), s.canonical → step s = .next t → t.canonical

/-- R39, R82, R83: every step keeps `pc` even, MTCC and MEPCC aligned, and PCC, MTCC and MEPCC unsealed
and executable where they are tagged. -/
def Obligations.PccSoundKept : Prop :=
  ∀ (s t : State), s.pccSound → step s = .next t → t.pccSound

/-- R64: every step keeps every tagged capability, in registers, PCC, SCRs and memory, well formed. From a
state that holds tagged capabilities with their bounds out of order besides, which R64 lets an arbitrary
state do, every step keeps that each is one or the other. -/
def Obligations.CapsWellFormedKept : Prop :=
  ∀ (s t : State), step s = .next t →
    (s.capsWellFormed → t.capsWellFormed) ∧ (s.capsSound → t.capsSound)

/-- R377, R523: provenance. Every tagged capability the machine holds after a step has its bounds and
permissions within those of a tagged capability it held before; the states are those of the second
clause of CapsWellFormedKept. -/
def Obligations.ProvenanceMonotone : Prop :=
  ∀ (s t : State), s.capsSound → step s = .next t →
    ∀ d, t.holds d → d.tag = true → ∃ c, s.holds c ∧ c.tag = true ∧ d.within c
end

