-- ==== Sys2Proof/Laws/Decode.lean ====
section
/-! SUPPORT. The fields of each encoding format read back what the format puts there, and the fields of
a word put together again give the word. -/

namespace Sys2Proof

/-! ## Register numbers -/

@[simp] theorem reg_bits (r : Reg) : reg r.bits = .ok r := by cases r <;> rfl

@[simp] theorem creg_bits (r : CReg) : creg r.bits = r := by cases r <;> rfl

@[simp] theorem scr_bits (n : Scr) : scr n.bits = .ok n := by cases n <;> rfl

theorem bits_creg (b : BitVec 3) : (creg b).bits = b := by
  obtain ⟨⟨n, h⟩⟩ := b
  interval_cases n <;> rfl

theorem bits_of_reg {b : BitVec 5} {r : Reg} (h : reg b = .ok r) : r.bits = b := by
  obtain ⟨⟨n, hn⟩⟩ := b
  interval_cases n <;> (cases h <;> rfl)

theorem bits_of_scr {b : BitVec 5} {n : Scr} (h : scr b = .ok n) : n.bits = b := by
  obtain ⟨⟨k, hk⟩⟩ := b
  interval_cases k <;> (cases h <;> rfl)

theorem bits_eq_zero {r : Reg} : r.bits = 0#5 ↔ r = .c0 := by cases r <;> decide

/-! ## 32-bit formats: the fields of an encoding -/

@[simp] theorem fOpcode_encR (f7 : BitVec 7) (r2 r1 : BitVec 5) (f3 : BitVec 3) (rd : BitVec 5) (op : BitVec 7) :
    fOpcode (encR f7 r2 r1 f3 rd op) = op := by
  apply BitVec.eq_of_getLsbD_eq
  intro i hi
  simp only [fOpcode, encR, BitVec.getLsbD_extractLsb',
    BitVec.getLsbD_append]
  interval_cases i <;> simp

@[simp] theorem fRd_encR (f7 : BitVec 7) (r2 r1 : BitVec 5) (f3 : BitVec 3) (rd : BitVec 5) (op : BitVec 7) :
    fRd (encR f7 r2 r1 f3 rd op) = rd := by
  apply BitVec.eq_of_getLsbD_eq
  intro i hi
  simp only [fRd, encR, BitVec.getLsbD_extractLsb',
    BitVec.getLsbD_append]
  interval_cases i <;> simp

@[simp] theorem fFunct3_encR (f7 : BitVec 7) (r2 r1 : BitVec 5) (f3 : BitVec 3) (rd : BitVec 5) (op : BitVec 7) :
    fFunct3 (encR f7 r2 r1 f3 rd op) = f3 := by
  apply BitVec.eq_of_getLsbD_eq
  intro i hi
  simp only [fFunct3, encR, BitVec.getLsbD_extractLsb',
    BitVec.getLsbD_append]
  interval_cases i <;> simp

@[simp] theorem fRs1_encR (f7 : BitVec 7) (r2 r1 : BitVec 5) (f3 : BitVec 3) (rd : BitVec 5) (op : BitVec 7) :
    fRs1 (encR f7 r2 r1 f3 rd op) = r1 := by
  apply BitVec.eq_of_getLsbD_eq
  intro i hi
  simp only [fRs1, encR, BitVec.getLsbD_extractLsb',
    BitVec.getLsbD_append]
  interval_cases i <;> simp

@[simp] theorem fRs2_encR (f7 : BitVec 7) (r2 r1 : BitVec 5) (f3 : BitVec 3) (rd : BitVec 5) (op : BitVec 7) :
    fRs2 (encR f7 r2 r1 f3 rd op) = r2 := by
  apply BitVec.eq_of_getLsbD_eq
  intro i hi
  simp only [fRs2, encR, BitVec.getLsbD_extractLsb',
    BitVec.getLsbD_append]
  interval_cases i <;> simp

@[simp] theorem fFunct7_encR (f7 : BitVec 7) (r2 r1 : BitVec 5) (f3 : BitVec 3) (rd : BitVec 5) (op : BitVec 7) :
    fFunct7 (encR f7 r2 r1 f3 rd op) = f7 := by
  apply BitVec.eq_of_getLsbD_eq
  intro i hi
  simp only [fFunct7, encR, BitVec.getLsbD_extractLsb',
    BitVec.getLsbD_append]
  interval_cases i <;> simp

@[simp] theorem fOpcode_encI (imm : BitVec 12) (r1 : BitVec 5) (f3 : BitVec 3) (rd : BitVec 5) (op : BitVec 7) :
    fOpcode (encI imm r1 f3 rd op) = op := by
  apply BitVec.eq_of_getLsbD_eq
  intro i hi
  simp only [fOpcode, encI, BitVec.getLsbD_extractLsb',
    BitVec.getLsbD_append]
  interval_cases i <;> simp

@[simp] theorem fRd_encI (imm : BitVec 12) (r1 : BitVec 5) (f3 : BitVec 3) (rd : BitVec 5) (op : BitVec 7) :
    fRd (encI imm r1 f3 rd op) = rd := by
  apply BitVec.eq_of_getLsbD_eq
  intro i hi
  simp only [fRd, encI, BitVec.getLsbD_extractLsb',
    BitVec.getLsbD_append]
  interval_cases i <;> simp

@[simp] theorem fFunct3_encI (imm : BitVec 12) (r1 : BitVec 5) (f3 : BitVec 3) (rd : BitVec 5) (op : BitVec 7) :
    fFunct3 (encI imm r1 f3 rd op) = f3 := by
  apply BitVec.eq_of_getLsbD_eq
  intro i hi
  simp only [fFunct3, encI, BitVec.getLsbD_extractLsb',
    BitVec.getLsbD_append]
  interval_cases i <;> simp

@[simp] theorem fRs1_encI (imm : BitVec 12) (r1 : BitVec 5) (f3 : BitVec 3) (rd : BitVec 5) (op : BitVec 7) :
    fRs1 (encI imm r1 f3 rd op) = r1 := by
  apply BitVec.eq_of_getLsbD_eq
  intro i hi
  simp only [fRs1, encI, BitVec.getLsbD_extractLsb',
    BitVec.getLsbD_append]
  interval_cases i <;> simp

@[simp] theorem fImmI_encI (imm : BitVec 12) (r1 : BitVec 5) (f3 : BitVec 3) (rd : BitVec 5) (op : BitVec 7) :
    fImmI (encI imm r1 f3 rd op) = imm := by
  apply BitVec.eq_of_getLsbD_eq
  intro i hi
  simp only [fImmI, encI, BitVec.getLsbD_extractLsb',
    BitVec.getLsbD_append]
  interval_cases i <;> simp

@[simp] theorem fOpcode_encS (imm : BitVec 12) (r2 r1 : BitVec 5) (f3 : BitVec 3) (op : BitVec 7) :
    fOpcode (encS imm r2 r1 f3 op) = op := by
  apply BitVec.eq_of_getLsbD_eq
  intro i hi
  simp only [fOpcode, encS, BitVec.getLsbD_extractLsb',
    BitVec.getLsbD_append]
  interval_cases i <;> simp

@[simp] theorem fFunct3_encS (imm : BitVec 12) (r2 r1 : BitVec 5) (f3 : BitVec 3) (op : BitVec 7) :
    fFunct3 (encS imm r2 r1 f3 op) = f3 := by
  apply BitVec.eq_of_getLsbD_eq
  intro i hi
  simp only [fFunct3, encS, BitVec.getLsbD_extractLsb',
    BitVec.getLsbD_append]
  interval_cases i <;> simp

@[simp] theorem fRs1_encS (imm : BitVec 12) (r2 r1 : BitVec 5) (f3 : BitVec 3) (op : BitVec 7) :
    fRs1 (encS imm r2 r1 f3 op) = r1 := by
  apply BitVec.eq_of_getLsbD_eq
  intro i hi
  simp only [fRs1, encS, BitVec.getLsbD_extractLsb',
    BitVec.getLsbD_append]
  interval_cases i <;> simp

@[simp] theorem fRs2_encS (imm : BitVec 12) (r2 r1 : BitVec 5) (f3 : BitVec 3) (op : BitVec 7) :
    fRs2 (encS imm r2 r1 f3 op) = r2 := by
  apply BitVec.eq_of_getLsbD_eq
  intro i hi
  simp only [fRs2, encS, BitVec.getLsbD_extractLsb',
    BitVec.getLsbD_append]
  interval_cases i <;> simp

@[simp] theorem fImmS_encS (imm : BitVec 12) (r2 r1 : BitVec 5) (f3 : BitVec 3) (op : BitVec 7) :
    fImmS (encS imm r2 r1 f3 op) = imm := by
  apply BitVec.eq_of_getLsbD_eq
  intro i hi
  simp only [fImmS, encS, BitVec.getLsbD_extractLsb',
    BitVec.getLsbD_append]
  interval_cases i <;> simp

@[simp] theorem fOpcode_encB (off : BitVec 12) (r2 r1 : BitVec 5) (f3 : BitVec 3) (op : BitVec 7) :
    fOpcode (encB off r2 r1 f3 op) = op := by
  apply BitVec.eq_of_getLsbD_eq
  intro i hi
  simp only [fOpcode, encB, BitVec.getLsbD_extractLsb',
    BitVec.getLsbD_append]
  interval_cases i <;> simp

@[simp] theorem fFunct3_encB (off : BitVec 12) (r2 r1 : BitVec 5) (f3 : BitVec 3) (op : BitVec 7) :
    fFunct3 (encB off r2 r1 f3 op) = f3 := by
  apply BitVec.eq_of_getLsbD_eq
  intro i hi
  simp only [fFunct3, encB, BitVec.getLsbD_extractLsb',
    BitVec.getLsbD_append]
  interval_cases i <;> simp

@[simp] theorem fRs1_encB (off : BitVec 12) (r2 r1 : BitVec 5) (f3 : BitVec 3) (op : BitVec 7) :
    fRs1 (encB off r2 r1 f3 op) = r1 := by
  apply BitVec.eq_of_getLsbD_eq
  intro i hi
  simp only [fRs1, encB, BitVec.getLsbD_extractLsb',
    BitVec.getLsbD_append]
  interval_cases i <;> simp

@[simp] theorem fRs2_encB (off : BitVec 12) (r2 r1 : BitVec 5) (f3 : BitVec 3) (op : BitVec 7) :
    fRs2 (encB off r2 r1 f3 op) = r2 := by
  apply BitVec.eq_of_getLsbD_eq
  intro i hi
  simp only [fRs2, encB, BitVec.getLsbD_extractLsb',
    BitVec.getLsbD_append]
  interval_cases i <;> simp

@[simp] theorem fImmB_encB (off : BitVec 12) (r2 r1 : BitVec 5) (f3 : BitVec 3) (op : BitVec 7) :
    fImmB (encB off r2 r1 f3 op) = off := by
  apply BitVec.eq_of_getLsbD_eq
  intro i hi
  simp only [fImmB, encB, BitVec.getLsbD_extractLsb',
    BitVec.getLsbD_append]
  interval_cases i <;> simp

@[simp] theorem fOpcode_encU (imm : BitVec 20) (rd : BitVec 5) (op : BitVec 7) :
    fOpcode (encU imm rd op) = op := by
  apply BitVec.eq_of_getLsbD_eq
  intro i hi
  simp only [fOpcode, encU, BitVec.getLsbD_extractLsb',
    BitVec.getLsbD_append]
  interval_cases i <;> simp

@[simp] theorem fRd_encU (imm : BitVec 20) (rd : BitVec 5) (op : BitVec 7) :
    fRd (encU imm rd op) = rd := by
  apply BitVec.eq_of_getLsbD_eq
  intro i hi
  simp only [fRd, encU, BitVec.getLsbD_extractLsb',
    BitVec.getLsbD_append]
  interval_cases i <;> simp

@[simp] theorem fImmU_encU (imm : BitVec 20) (rd : BitVec 5) (op : BitVec 7) :
    fImmU (encU imm rd op) = imm := by
  apply BitVec.eq_of_getLsbD_eq
  intro i hi
  simp only [fImmU, encU, BitVec.getLsbD_extractLsb',
    BitVec.getLsbD_append]
  interval_cases i <;> simp

@[simp] theorem fOpcode_encJ (off : BitVec 20) (rd : BitVec 5) (op : BitVec 7) :
    fOpcode (encJ off rd op) = op := by
  apply BitVec.eq_of_getLsbD_eq
  intro i hi
  simp only [fOpcode, encJ, BitVec.getLsbD_extractLsb',
    BitVec.getLsbD_append]
  interval_cases i <;> simp

@[simp] theorem fRd_encJ (off : BitVec 20) (rd : BitVec 5) (op : BitVec 7) :
    fRd (encJ off rd op) = rd := by
  apply BitVec.eq_of_getLsbD_eq
  intro i hi
  simp only [fRd, encJ, BitVec.getLsbD_extractLsb',
    BitVec.getLsbD_append]
  interval_cases i <;> simp

@[simp] theorem fImmJ_encJ (off : BitVec 20) (rd : BitVec 5) (op : BitVec 7) :
    fImmJ (encJ off rd op) = off := by
  apply BitVec.eq_of_getLsbD_eq
  intro i hi
  simp only [fImmJ, encJ, BitVec.getLsbD_extractLsb',
    BitVec.getLsbD_append]
  interval_cases i <;> simp

/-! ## 32-bit formats: a word from its fields -/

theorem encR_fields (w : Word) :
    encR (fFunct7 w) (fRs2 w) (fRs1 w) (fFunct3 w) (fRd w) (fOpcode w) = w := by
  apply BitVec.eq_of_getLsbD_eq
  intro i hi
  simp only [encR, fFunct7, fRs2, fRs1, fFunct3, fRd, fOpcode, BitVec.getLsbD_extractLsb',
    BitVec.getLsbD_append]
  interval_cases i <;> simp

theorem encI_fields (w : Word) :
    encI (fImmI w) (fRs1 w) (fFunct3 w) (fRd w) (fOpcode w) = w := by
  apply BitVec.eq_of_getLsbD_eq
  intro i hi
  simp only [encI, fImmI, fRs1, fFunct3, fRd, fOpcode, BitVec.getLsbD_extractLsb',
    BitVec.getLsbD_append]
  interval_cases i <;> simp

theorem encS_fields (w : Word) :
    encS (fImmS w) (fRs2 w) (fRs1 w) (fFunct3 w) (fOpcode w) = w := by
  apply BitVec.eq_of_getLsbD_eq
  intro i hi
  simp only [encS, fImmS, fRs2, fRs1, fFunct3, fOpcode, BitVec.getLsbD_extractLsb',
    BitVec.getLsbD_append]
  interval_cases i <;> simp

theorem encB_fields (w : Word) :
    encB (fImmB w) (fRs2 w) (fRs1 w) (fFunct3 w) (fOpcode w) = w := by
  apply BitVec.eq_of_getLsbD_eq
  intro i hi
  simp only [encB, fImmB, fRs2, fRs1, fFunct3, fOpcode, BitVec.getLsbD_extractLsb',
    BitVec.getLsbD_append]
  interval_cases i <;> simp

theorem encU_fields (w : Word) :
    encU (fImmU w) (fRd w) (fOpcode w) = w := by
  apply BitVec.eq_of_getLsbD_eq
  intro i hi
  simp only [encU, fImmU, fRd, fOpcode, BitVec.getLsbD_extractLsb',
    BitVec.getLsbD_append]
  interval_cases i <;> simp

theorem encJ_fields (w : Word) :
    encJ (fImmJ w) (fRd w) (fOpcode w) = w := by
  apply BitVec.eq_of_getLsbD_eq
  intro i hi
  simp only [encJ, fImmJ, fRd, fOpcode, BitVec.getLsbD_extractLsb',
    BitVec.getLsbD_append]
  interval_cases i <;> simp

theorem fence_fields (w : Word) :
    w.extractLsb' 28 4 ++ w.extractLsb' 24 4 ++ w.extractLsb' 20 4 = fImmI w := by
  apply BitVec.eq_of_getLsbD_eq
  intro i hi
  simp only [fImmI, BitVec.getLsbD_extractLsb',
    BitVec.getLsbD_append]
  interval_cases i <;> simp

/-! ## The fields of FENCE (R330) -/

@[simp] theorem fence_fm (fm pr su : BitVec 4) (r1 : BitVec 5) (f3 : BitVec 3) (rd : BitVec 5) (op : BitVec 7) :
    (encI (fm ++ pr ++ su) r1 f3 rd op).extractLsb' 28 4 = fm := by
  apply BitVec.eq_of_getLsbD_eq
  intro i hi
  simp only [encI, BitVec.getLsbD_extractLsb',
    BitVec.getLsbD_append]
  interval_cases i <;> simp

@[simp] theorem fence_pred (fm pr su : BitVec 4) (r1 : BitVec 5) (f3 : BitVec 3) (rd : BitVec 5) (op : BitVec 7) :
    (encI (fm ++ pr ++ su) r1 f3 rd op).extractLsb' 24 4 = pr := by
  apply BitVec.eq_of_getLsbD_eq
  intro i hi
  simp only [encI, BitVec.getLsbD_extractLsb',
    BitVec.getLsbD_append]
  interval_cases i <;> simp

@[simp] theorem fence_succ (fm pr su : BitVec 4) (r1 : BitVec 5) (f3 : BitVec 3) (rd : BitVec 5) (op : BitVec 7) :
    (encI (fm ++ pr ++ su) r1 f3 rd op).extractLsb' 20 4 = su := by
  apply BitVec.eq_of_getLsbD_eq
  intro i hi
  simp only [encI, BitVec.getLsbD_extractLsb',
    BitVec.getLsbD_append]
  interval_cases i <;> simp

/-! ## 16-bit formats: the fields of an encoding -/

@[simp] theorem hQuadrant_encCI (f : BitVec 3) (hi : BitVec 1) (rd lo : BitVec 5) (q : BitVec 2) :
    hQuadrant (encCI f hi rd lo q) = q := by
  apply BitVec.eq_of_getLsbD_eq
  intro i hi
  simp only [hQuadrant, encCI, BitVec.getLsbD_extractLsb',
    BitVec.getLsbD_append]
  interval_cases i <;> simp

@[simp] theorem hFunct3_encCI (f : BitVec 3) (hi : BitVec 1) (rd lo : BitVec 5) (q : BitVec 2) :
    hFunct3 (encCI f hi rd lo q) = f := by
  apply BitVec.eq_of_getLsbD_eq
  intro i hi
  simp only [hFunct3, encCI, BitVec.getLsbD_extractLsb',
    BitVec.getLsbD_append]
  interval_cases i <;> simp

@[simp] theorem hBit12_encCI (f : BitVec 3) (hi : BitVec 1) (rd lo : BitVec 5) (q : BitVec 2) :
    hBit12 (encCI f hi rd lo q) = hi := by
  apply BitVec.eq_of_getLsbD_eq
  intro i hi
  simp only [hBit12, encCI, BitVec.getLsbD_extractLsb',
    BitVec.getLsbD_append]
  interval_cases i <;> simp

@[simp] theorem hRd_encCI (f : BitVec 3) (hi : BitVec 1) (rd lo : BitVec 5) (q : BitVec 2) :
    hRd (encCI f hi rd lo q) = rd := by
  apply BitVec.eq_of_getLsbD_eq
  intro i hi
  simp only [hRd, encCI, BitVec.getLsbD_extractLsb',
    BitVec.getLsbD_append]
  interval_cases i <;> simp

@[simp] theorem hRs2_encCI (f : BitVec 3) (hi : BitVec 1) (rd lo : BitVec 5) (q : BitVec 2) :
    hRs2 (encCI f hi rd lo q) = lo := by
  apply BitVec.eq_of_getLsbD_eq
  intro i hi
  simp only [hRs2, encCI, BitVec.getLsbD_extractLsb',
    BitVec.getLsbD_append]
  interval_cases i <;> simp

@[simp] theorem hQuadrant_encCI6 (f : BitVec 3) (imm : BitVec 6) (rd : BitVec 5) (q : BitVec 2) :
    hQuadrant (encCI6 f imm rd q) = q := by
  apply BitVec.eq_of_getLsbD_eq
  intro i hi
  simp only [hQuadrant, encCI6, encCI, BitVec.getLsbD_extractLsb',
    BitVec.getLsbD_append]
  interval_cases i <;> simp

@[simp] theorem hFunct3_encCI6 (f : BitVec 3) (imm : BitVec 6) (rd : BitVec 5) (q : BitVec 2) :
    hFunct3 (encCI6 f imm rd q) = f := by
  apply BitVec.eq_of_getLsbD_eq
  intro i hi
  simp only [hFunct3, encCI6, encCI, BitVec.getLsbD_extractLsb',
    BitVec.getLsbD_append]
  interval_cases i <;> simp

@[simp] theorem hRd_encCI6 (f : BitVec 3) (imm : BitVec 6) (rd : BitVec 5) (q : BitVec 2) :
    hRd (encCI6 f imm rd q) = rd := by
  apply BitVec.eq_of_getLsbD_eq
  intro i hi
  simp only [hRd, encCI6, encCI, BitVec.getLsbD_extractLsb',
    BitVec.getLsbD_append]
  interval_cases i <;> simp

@[simp] theorem hImm6_encCI6 (f : BitVec 3) (imm : BitVec 6) (rd : BitVec 5) (q : BitVec 2) :
    hImm6 (encCI6 f imm rd q) = imm := by
  apply BitVec.eq_of_getLsbD_eq
  intro i hi
  simp only [hImm6, encCI6, encCI, BitVec.getLsbD_extractLsb',
    BitVec.getLsbD_append]
  interval_cases i <;> simp

@[simp] theorem hQuadrant_encCSS (f : BitVec 3) (imm : BitVec 6) (r2 : BitVec 5) :
    hQuadrant (encCSS f imm r2) = 2#2 := by
  apply BitVec.eq_of_getLsbD_eq
  intro i hi
  simp only [hQuadrant, encCSS, BitVec.getLsbD_extractLsb',
    BitVec.getLsbD_append]
  interval_cases i <;> simp

@[simp] theorem hFunct3_encCSS (f : BitVec 3) (imm : BitVec 6) (r2 : BitVec 5) :
    hFunct3 (encCSS f imm r2) = f := by
  apply BitVec.eq_of_getLsbD_eq
  intro i hi
  simp only [hFunct3, encCSS, BitVec.getLsbD_extractLsb',
    BitVec.getLsbD_append]
  interval_cases i <;> simp

@[simp] theorem hRs2_encCSS (f : BitVec 3) (imm : BitVec 6) (r2 : BitVec 5) :
    hRs2 (encCSS f imm r2) = r2 := by
  apply BitVec.eq_of_getLsbD_eq
  intro i hi
  simp only [hRs2, encCSS, BitVec.getLsbD_extractLsb',
    BitVec.getLsbD_append]
  interval_cases i <;> simp

@[simp] theorem hQuadrant_encCJ (f : BitVec 3) (off : BitVec 11) :
    hQuadrant (encCJ f off) = 1#2 := by
  apply BitVec.eq_of_getLsbD_eq
  intro i hi
  simp only [hQuadrant, encCJ, BitVec.getLsbD_extractLsb',
    BitVec.getLsbD_append]
  interval_cases i <;> simp

@[simp] theorem hFunct3_encCJ (f : BitVec 3) (off : BitVec 11) :
    hFunct3 (encCJ f off) = f := by
  apply BitVec.eq_of_getLsbD_eq
  intro i hi
  simp only [hFunct3, encCJ, BitVec.getLsbD_extractLsb',
    BitVec.getLsbD_append]
  interval_cases i <;> simp

@[simp] theorem hOffJ_encCJ (f : BitVec 3) (off : BitVec 11) :
    hOffJ (encCJ f off) = off := by
  apply BitVec.eq_of_getLsbD_eq
  intro i hi
  simp only [hOffJ, encCJ, BitVec.getLsbD_extractLsb',
    BitVec.getLsbD_append]
  interval_cases i <;> simp

@[simp] theorem hQuadrant_encCR (hi : BitVec 1) (rd r2 : BitVec 5) :
    hQuadrant (encCR hi rd r2) = 2#2 := by
  apply BitVec.eq_of_getLsbD_eq
  intro i hi
  simp only [hQuadrant, encCR, BitVec.getLsbD_extractLsb',
    BitVec.getLsbD_append]
  interval_cases i <;> simp

@[simp] theorem hFunct3_encCR (hi : BitVec 1) (rd r2 : BitVec 5) :
    hFunct3 (encCR hi rd r2) = 4#3 := by
  apply BitVec.eq_of_getLsbD_eq
  intro i hi
  simp only [hFunct3, encCR, BitVec.getLsbD_extractLsb',
    BitVec.getLsbD_append]
  interval_cases i <;> simp

@[simp] theorem hBit12_encCR (hi : BitVec 1) (rd r2 : BitVec 5) :
    hBit12 (encCR hi rd r2) = hi := by
  apply BitVec.eq_of_getLsbD_eq
  intro i hi
  simp only [hBit12, encCR, BitVec.getLsbD_extractLsb',
    BitVec.getLsbD_append]
  interval_cases i <;> simp

@[simp] theorem hRd_encCR (hi : BitVec 1) (rd r2 : BitVec 5) :
    hRd (encCR hi rd r2) = rd := by
  apply BitVec.eq_of_getLsbD_eq
  intro i hi
  simp only [hRd, encCR, BitVec.getLsbD_extractLsb',
    BitVec.getLsbD_append]
  interval_cases i <;> simp

@[simp] theorem hRs2_encCR (hi : BitVec 1) (rd r2 : BitVec 5) :
    hRs2 (encCR hi rd r2) = r2 := by
  apply BitVec.eq_of_getLsbD_eq
  intro i hi
  simp only [hRs2, encCR, BitVec.getLsbD_extractLsb',
    BitVec.getLsbD_append]
  interval_cases i <;> simp

@[simp] theorem hQuadrant_encCLw (f : BitVec 3) (u : BitVec 5) (r1 rd : CReg) :
    hQuadrant (encCLw f u r1 rd) = 0#2 := by
  apply BitVec.eq_of_getLsbD_eq
  intro i hi
  simp only [hQuadrant, encCLw, encCL, BitVec.getLsbD_extractLsb',
    BitVec.getLsbD_append]
  interval_cases i <;> simp

@[simp] theorem hFunct3_encCLw (f : BitVec 3) (u : BitVec 5) (r1 rd : CReg) :
    hFunct3 (encCLw f u r1 rd) = f := by
  apply BitVec.eq_of_getLsbD_eq
  intro i hi
  simp only [hFunct3, encCLw, encCL, BitVec.getLsbD_extractLsb',
    BitVec.getLsbD_append]
  interval_cases i <;> simp

@[simp] theorem hImmLw_encCLw (f : BitVec 3) (u : BitVec 5) (r1 rd : CReg) :
    hImmLw (encCLw f u r1 rd) = u := by
  apply BitVec.eq_of_getLsbD_eq
  intro i hi
  simp only [hImmLw, encCLw, encCL, BitVec.getLsbD_extractLsb',
    BitVec.getLsbD_append]
  interval_cases i <;> simp

@[simp] theorem hRs1C_bits_encCLw (f : BitVec 3) (u : BitVec 5) (r1 rd : CReg) :
    (encCLw f u r1 rd).extractLsb' 7 3 = r1.bits := by
  apply BitVec.eq_of_getLsbD_eq
  intro i hi
  simp only [encCLw, encCL, BitVec.getLsbD_extractLsb',
    BitVec.getLsbD_append]
  interval_cases i <;> simp

@[simp] theorem hRs1C_encCLw (f : BitVec 3) (u : BitVec 5) (r1 rd : CReg) :
    hRs1C (encCLw f u r1 rd) = r1 := by
  rw [hRs1C, hRs1C_bits_encCLw, creg_bits]

@[simp] theorem hRdC_bits_encCLw (f : BitVec 3) (u : BitVec 5) (r1 rd : CReg) :
    (encCLw f u r1 rd).extractLsb' 2 3 = rd.bits := by
  apply BitVec.eq_of_getLsbD_eq
  intro i hi
  simp only [encCLw, encCL, BitVec.getLsbD_extractLsb',
    BitVec.getLsbD_append]
  interval_cases i <;> simp

@[simp] theorem hRdC_encCLw (f : BitVec 3) (u : BitVec 5) (r1 rd : CReg) :
    hRdC (encCLw f u r1 rd) = rd := by
  rw [hRdC, hRdC_bits_encCLw, creg_bits]

@[simp] theorem hQuadrant_encCLc (f : BitVec 3) (u : BitVec 5) (r1 rd : CReg) :
    hQuadrant (encCLc f u r1 rd) = 0#2 := by
  apply BitVec.eq_of_getLsbD_eq
  intro i hi
  simp only [hQuadrant, encCLc, encCL, BitVec.getLsbD_extractLsb',
    BitVec.getLsbD_append]
  interval_cases i <;> simp

@[simp] theorem hFunct3_encCLc (f : BitVec 3) (u : BitVec 5) (r1 rd : CReg) :
    hFunct3 (encCLc f u r1 rd) = f := by
  apply BitVec.eq_of_getLsbD_eq
  intro i hi
  simp only [hFunct3, encCLc, encCL, BitVec.getLsbD_extractLsb',
    BitVec.getLsbD_append]
  interval_cases i <;> simp

@[simp] theorem hImmLc_encCLc (f : BitVec 3) (u : BitVec 5) (r1 rd : CReg) :
    hImmLc (encCLc f u r1 rd) = u := by
  apply BitVec.eq_of_getLsbD_eq
  intro i hi
  simp only [hImmLc, encCLc, encCL, BitVec.getLsbD_extractLsb',
    BitVec.getLsbD_append]
  interval_cases i <;> simp

@[simp] theorem hRs1C_bits_encCLc (f : BitVec 3) (u : BitVec 5) (r1 rd : CReg) :
    (encCLc f u r1 rd).extractLsb' 7 3 = r1.bits := by
  apply BitVec.eq_of_getLsbD_eq
  intro i hi
  simp only [encCLc, encCL, BitVec.getLsbD_extractLsb',
    BitVec.getLsbD_append]
  interval_cases i <;> simp

@[simp] theorem hRs1C_encCLc (f : BitVec 3) (u : BitVec 5) (r1 rd : CReg) :
    hRs1C (encCLc f u r1 rd) = r1 := by
  rw [hRs1C, hRs1C_bits_encCLc, creg_bits]

@[simp] theorem hRdC_bits_encCLc (f : BitVec 3) (u : BitVec 5) (r1 rd : CReg) :
    (encCLc f u r1 rd).extractLsb' 2 3 = rd.bits := by
  apply BitVec.eq_of_getLsbD_eq
  intro i hi
  simp only [encCLc, encCL, BitVec.getLsbD_extractLsb',
    BitVec.getLsbD_append]
  interval_cases i <;> simp

@[simp] theorem hRdC_encCLc (f : BitVec 3) (u : BitVec 5) (r1 rd : CReg) :
    hRdC (encCLc f u r1 rd) = rd := by
  rw [hRdC, hRdC_bits_encCLc, creg_bits]

@[simp] theorem hQuadrant_encCB (f : BitVec 3) (off : BitVec 8) (r1 : CReg) :
    hQuadrant (encCB f off r1) = 1#2 := by
  apply BitVec.eq_of_getLsbD_eq
  intro i hi
  simp only [hQuadrant, encCB, BitVec.getLsbD_extractLsb',
    BitVec.getLsbD_append]
  interval_cases i <;> simp

@[simp] theorem hFunct3_encCB (f : BitVec 3) (off : BitVec 8) (r1 : CReg) :
    hFunct3 (encCB f off r1) = f := by
  apply BitVec.eq_of_getLsbD_eq
  intro i hi
  simp only [hFunct3, encCB, BitVec.getLsbD_extractLsb',
    BitVec.getLsbD_append]
  interval_cases i <;> simp

@[simp] theorem hOffB_encCB (f : BitVec 3) (off : BitVec 8) (r1 : CReg) :
    hOffB (encCB f off r1) = off := by
  apply BitVec.eq_of_getLsbD_eq
  intro i hi
  simp only [hOffB, encCB, BitVec.getLsbD_extractLsb',
    BitVec.getLsbD_append]
  interval_cases i <;> simp

@[simp] theorem hRs1C_bits_encCB (f : BitVec 3) (off : BitVec 8) (r1 : CReg) :
    (encCB f off r1).extractLsb' 7 3 = r1.bits := by
  apply BitVec.eq_of_getLsbD_eq
  intro i hi
  simp only [encCB, BitVec.getLsbD_extractLsb',
    BitVec.getLsbD_append]
  interval_cases i <;> simp

@[simp] theorem hRs1C_encCB (f : BitVec 3) (off : BitVec 8) (r1 : CReg) :
    hRs1C (encCB f off r1) = r1 := by
  rw [hRs1C, hRs1C_bits_encCB, creg_bits]

@[simp] theorem hQuadrant_encCA (hi : BitVec 1) (k : BitVec 2) (rd : CReg) (lo : BitVec 5) :
    hQuadrant (encCA hi k rd lo) = 1#2 := by
  apply BitVec.eq_of_getLsbD_eq
  intro i hi
  simp only [hQuadrant, encCA, BitVec.getLsbD_extractLsb',
    BitVec.getLsbD_append]
  interval_cases i <;> simp

@[simp] theorem hFunct3_encCA (hi : BitVec 1) (k : BitVec 2) (rd : CReg) (lo : BitVec 5) :
    hFunct3 (encCA hi k rd lo) = 4#3 := by
  apply BitVec.eq_of_getLsbD_eq
  intro i hi
  simp only [hFunct3, encCA, BitVec.getLsbD_extractLsb',
    BitVec.getLsbD_append]
  interval_cases i <;> simp

@[simp] theorem hBit12_encCA (hi : BitVec 1) (k : BitVec 2) (rd : CReg) (lo : BitVec 5) :
    hBit12 (encCA hi k rd lo) = hi := by
  apply BitVec.eq_of_getLsbD_eq
  intro i hi
  simp only [hBit12, encCA, BitVec.getLsbD_extractLsb',
    BitVec.getLsbD_append]
  interval_cases i <;> simp

@[simp] theorem hRs2_encCA (hi : BitVec 1) (k : BitVec 2) (rd : CReg) (lo : BitVec 5) :
    hRs2 (encCA hi k rd lo) = lo := by
  apply BitVec.eq_of_getLsbD_eq
  intro i hi
  simp only [hRs2, encCA, BitVec.getLsbD_extractLsb',
    BitVec.getLsbD_append]
  interval_cases i <;> simp

@[simp] theorem hRs1C_bits_encCA (hi : BitVec 1) (k : BitVec 2) (rd : CReg) (lo : BitVec 5) :
    (encCA hi k rd lo).extractLsb' 7 3 = rd.bits := by
  apply BitVec.eq_of_getLsbD_eq
  intro i hi
  simp only [encCA, BitVec.getLsbD_extractLsb',
    BitVec.getLsbD_append]
  interval_cases i <;> simp

@[simp] theorem hRs1C_encCA (hi : BitVec 1) (k : BitVec 2) (rd : CReg) (lo : BitVec 5) :
    hRs1C (encCA hi k rd lo) = rd := by
  rw [hRs1C, hRs1C_bits_encCA, creg_bits]

@[simp] theorem kind_encCA (hi : BitVec 1) (k : BitVec 2) (rd : CReg) (lo : BitVec 5) :
    (encCA hi k rd lo).extractLsb' 10 2 = k := by
  apply BitVec.eq_of_getLsbD_eq
  intro i hi
  simp only [encCA, BitVec.getLsbD_extractLsb',
    BitVec.getLsbD_append]
  interval_cases i <;> simp

@[simp] theorem sub_encCA (hi : BitVec 1) (k : BitVec 2) (rd : CReg) (c : BitVec 2) (r : CReg) :
    (encCA hi k rd (c ++ r.bits)).extractLsb' 5 2 = c := by
  apply BitVec.eq_of_getLsbD_eq
  intro i hi
  simp only [encCA, BitVec.getLsbD_extractLsb',
    BitVec.getLsbD_append]
  interval_cases i <;> simp

@[simp] theorem hRdC_bits_encCA (hi : BitVec 1) (k : BitVec 2) (rd : CReg) (c : BitVec 2) (r : CReg) :
    (encCA hi k rd (c ++ r.bits)).extractLsb' 2 3 = r.bits := by
  apply BitVec.eq_of_getLsbD_eq
  intro i hi
  simp only [encCA, BitVec.getLsbD_extractLsb',
    BitVec.getLsbD_append]
  interval_cases i <;> simp

@[simp] theorem hRdC_encCA (hi : BitVec 1) (k : BitVec 2) (rd : CReg) (c : BitVec 2) (r : CReg) :
    hRdC (encCA hi k rd (c ++ r.bits)) = r := by
  rw [hRdC, hRdC_bits_encCA, creg_bits]

@[simp] theorem hImm6_encCA (k : BitVec 2) (rd : CReg) (imm : BitVec 6) :
    hImm6 (encCA (imm.extractLsb' 5 1) k rd (imm.extractLsb' 0 5)) = imm := by
  apply BitVec.eq_of_getLsbD_eq
  intro i hi
  simp only [hImm6, encCA, BitVec.getLsbD_extractLsb',
    BitVec.getLsbD_append]
  interval_cases i <;> simp

@[simp] theorem hImm16sp_encCI (f : BitVec 3) (rd : BitVec 5) (n : BitVec 6) (q : BitVec 2) :
    hImm16sp (encCI f (n.extractLsb' 5 1) rd
      (n.extractLsb' 0 1 ++ n.extractLsb' 2 1 ++ n.extractLsb' 3 2 ++ n.extractLsb' 1 1) q) = n := by
  apply BitVec.eq_of_getLsbD_eq
  intro i hi
  simp only [hImm16sp, encCI, BitVec.getLsbD_extractLsb',
    BitVec.getLsbD_append]
  interval_cases i <;> simp

@[simp] theorem hImmLwsp_encCI (f : BitVec 3) (rd : BitVec 5) (u : BitVec 6) (q : BitVec 2) :
    hImmLwsp (encCI f (u.extractLsb' 3 1) rd (u.extractLsb' 0 3 ++ u.extractLsb' 4 2) q) = u := by
  apply BitVec.eq_of_getLsbD_eq
  intro i hi
  simp only [hImmLwsp, encCI, BitVec.getLsbD_extractLsb',
    BitVec.getLsbD_append]
  interval_cases i <;> simp

@[simp] theorem hImmLcsp_encCI (f : BitVec 3) (rd : BitVec 5) (u : BitVec 6) (q : BitVec 2) :
    hImmLcsp (encCI f (u.extractLsb' 2 1) rd (u.extractLsb' 0 2 ++ u.extractLsb' 3 3) q) = u := by
  apply BitVec.eq_of_getLsbD_eq
  intro i hi
  simp only [hImmLcsp, encCI, BitVec.getLsbD_extractLsb',
    BitVec.getLsbD_append]
  interval_cases i <;> simp

@[simp] theorem hImmSwsp_encCSS (f : BitVec 3) (r2 : BitVec 5) (u : BitVec 6) :
    hImmSwsp (encCSS f (u.extractLsb' 0 4 ++ u.extractLsb' 4 2) r2) = u := by
  apply BitVec.eq_of_getLsbD_eq
  intro i hi
  simp only [hImmSwsp, encCSS, BitVec.getLsbD_extractLsb',
    BitVec.getLsbD_append]
  interval_cases i <;> simp

@[simp] theorem hImmScsp_encCSS (f : BitVec 3) (r2 : BitVec 5) (u : BitVec 6) :
    hImmScsp (encCSS f (u.extractLsb' 0 3 ++ u.extractLsb' 3 3) r2) = u := by
  apply BitVec.eq_of_getLsbD_eq
  intro i hi
  simp only [hImmScsp, encCSS, BitVec.getLsbD_extractLsb',
    BitVec.getLsbD_append]
  interval_cases i <;> simp

@[simp] theorem hQuadrant_4spn (cd : CReg) (u : BitVec 8) :
    hQuadrant (0#3 ++ u.extractLsb' 2 2 ++ u.extractLsb' 4 4 ++ u.extractLsb' 0 1 ++
      u.extractLsb' 1 1 ++ cd.bits ++ 0#2 : Parcel) = 0#2 := by
  apply BitVec.eq_of_getLsbD_eq
  intro i hi
  simp only [hQuadrant, BitVec.getLsbD_extractLsb',
    BitVec.getLsbD_append]
  interval_cases i <;> simp

@[simp] theorem hFunct3_4spn (cd : CReg) (u : BitVec 8) :
    hFunct3 (0#3 ++ u.extractLsb' 2 2 ++ u.extractLsb' 4 4 ++ u.extractLsb' 0 1 ++
      u.extractLsb' 1 1 ++ cd.bits ++ 0#2 : Parcel) = 0#3 := by
  apply BitVec.eq_of_getLsbD_eq
  intro i hi
  simp only [hFunct3, BitVec.getLsbD_extractLsb',
    BitVec.getLsbD_append]
  interval_cases i <;> simp

@[simp] theorem hImm4spn_4spn (cd : CReg) (u : BitVec 8) :
    hImm4spn (0#3 ++ u.extractLsb' 2 2 ++ u.extractLsb' 4 4 ++ u.extractLsb' 0 1 ++
      u.extractLsb' 1 1 ++ cd.bits ++ 0#2 : Parcel) = u := by
  apply BitVec.eq_of_getLsbD_eq
  intro i hi
  simp only [hImm4spn, BitVec.getLsbD_extractLsb',
    BitVec.getLsbD_append]
  interval_cases i <;> simp

@[simp] theorem hRdC_bits_4spn (cd : CReg) (u : BitVec 8) :
    (0#3 ++ u.extractLsb' 2 2 ++ u.extractLsb' 4 4 ++ u.extractLsb' 0 1 ++
      u.extractLsb' 1 1 ++ cd.bits ++ 0#2 : Parcel).extractLsb' 2 3 = cd.bits := by
  apply BitVec.eq_of_getLsbD_eq
  intro i hi
  simp only [BitVec.getLsbD_extractLsb',
    BitVec.getLsbD_append]
  interval_cases i <;> simp

@[simp] theorem hRdC_4spn (cd : CReg) (u : BitVec 8) :
    hRdC (0#3 ++ u.extractLsb' 2 2 ++ u.extractLsb' 4 4 ++ u.extractLsb' 0 1 ++
      u.extractLsb' 1 1 ++ cd.bits ++ 0#2 : Parcel) = cd := by
  rw [hRdC, hRdC_bits_4spn, creg_bits]

/-! ## 16-bit formats: a parcel from its fields -/

theorem encCI_fields (h : Parcel) :
    encCI (hFunct3 h) (hBit12 h) (hRd h) (hRs2 h) (hQuadrant h) = h := by
  apply BitVec.eq_of_getLsbD_eq
  intro i hi
  simp only [encCI, hFunct3, hBit12, hRd, hRs2, hQuadrant, BitVec.getLsbD_extractLsb',
    BitVec.getLsbD_append]
  interval_cases i <;> simp

theorem encCI6_fields (h : Parcel) :
    encCI6 (hFunct3 h) (hImm6 h) (hRd h) (hQuadrant h) = h := by
  apply BitVec.eq_of_getLsbD_eq
  intro i hi
  simp only [encCI6, encCI, hFunct3, hImm6, hRd, hQuadrant, BitVec.getLsbD_extractLsb',
    BitVec.getLsbD_append]
  interval_cases i <;> simp

theorem parcel_4spn (h : Parcel) :
    hFunct3 h ++ (hImm4spn h).extractLsb' 2 2 ++ (hImm4spn h).extractLsb' 4 4 ++
      (hImm4spn h).extractLsb' 0 1 ++ (hImm4spn h).extractLsb' 1 1 ++ h.extractLsb' 2 3 ++
      hQuadrant h = h := by
  apply BitVec.eq_of_getLsbD_eq
  intro i hi
  simp only [hFunct3, hImm4spn, hQuadrant, BitVec.getLsbD_extractLsb',
    BitVec.getLsbD_append]
  interval_cases i <;> simp

theorem parcel_CLw (h : Parcel) :
    hFunct3 h ++ (hImmLw h).extractLsb' 1 3 ++ h.extractLsb' 7 3 ++
      ((hImmLw h).extractLsb' 0 1 ++ (hImmLw h).extractLsb' 4 1) ++ h.extractLsb' 2 3 ++
      hQuadrant h = h := by
  apply BitVec.eq_of_getLsbD_eq
  intro i hi
  simp only [hFunct3, hImmLw, hQuadrant, BitVec.getLsbD_extractLsb',
    BitVec.getLsbD_append]
  interval_cases i <;> simp

theorem parcel_CLc (h : Parcel) :
    hFunct3 h ++ (hImmLc h).extractLsb' 0 3 ++ h.extractLsb' 7 3 ++
      (hImmLc h).extractLsb' 3 2 ++ h.extractLsb' 2 3 ++ hQuadrant h = h := by
  apply BitVec.eq_of_getLsbD_eq
  intro i hi
  simp only [hFunct3, hImmLc, hQuadrant, BitVec.getLsbD_extractLsb',
    BitVec.getLsbD_append]
  interval_cases i <;> simp

theorem parcel_CJ (h : Parcel) :
    hFunct3 h ++ (hOffJ h).extractLsb' 10 1 ++ (hOffJ h).extractLsb' 3 1 ++
      (hOffJ h).extractLsb' 7 2 ++ (hOffJ h).extractLsb' 9 1 ++ (hOffJ h).extractLsb' 5 1 ++
      (hOffJ h).extractLsb' 6 1 ++ (hOffJ h).extractLsb' 0 3 ++ (hOffJ h).extractLsb' 4 1 ++
      hQuadrant h = h := by
  apply BitVec.eq_of_getLsbD_eq
  intro i hi
  simp only [hFunct3, hOffJ, hQuadrant, BitVec.getLsbD_extractLsb',
    BitVec.getLsbD_append]
  interval_cases i <;> simp

theorem parcel_CB (h : Parcel) :
    hFunct3 h ++ (hOffB h).extractLsb' 7 1 ++ (hOffB h).extractLsb' 2 2 ++
      h.extractLsb' 7 3 ++ (hOffB h).extractLsb' 5 2 ++ (hOffB h).extractLsb' 0 2 ++
      (hOffB h).extractLsb' 4 1 ++ hQuadrant h = h := by
  apply BitVec.eq_of_getLsbD_eq
  intro i hi
  simp only [hFunct3, hOffB, hQuadrant, BitVec.getLsbD_extractLsb',
    BitVec.getLsbD_append]
  interval_cases i <;> simp

theorem parcel_CA (h : Parcel) :
    hFunct3 h ++ hBit12 h ++ h.extractLsb' 10 2 ++ h.extractLsb' 7 3 ++ hRs2 h ++
      hQuadrant h = h := by
  apply BitVec.eq_of_getLsbD_eq
  intro i hi
  simp only [hFunct3, hBit12, hRs2, hQuadrant, BitVec.getLsbD_extractLsb',
    BitVec.getLsbD_append]
  interval_cases i <;> simp

theorem parcel_CAndi (h : Parcel) :
    hFunct3 h ++ (hImm6 h).extractLsb' 5 1 ++ h.extractLsb' 10 2 ++ h.extractLsb' 7 3 ++
      (hImm6 h).extractLsb' 0 5 ++ hQuadrant h = h := by
  apply BitVec.eq_of_getLsbD_eq
  intro i hi
  simp only [hFunct3, hImm6, hQuadrant, BitVec.getLsbD_extractLsb',
    BitVec.getLsbD_append]
  interval_cases i <;> simp

theorem parcel_CA2 (h : Parcel) :
    hFunct3 h ++ hBit12 h ++ h.extractLsb' 10 2 ++ h.extractLsb' 7 3 ++
      (h.extractLsb' 5 2 ++ h.extractLsb' 2 3) ++ hQuadrant h = h := by
  apply BitVec.eq_of_getLsbD_eq
  intro i hi
  simp only [hFunct3, hBit12, hQuadrant, BitVec.getLsbD_extractLsb',
    BitVec.getLsbD_append]
  interval_cases i <;> simp

theorem parcel_16sp (h : Parcel) :
    encCI (hFunct3 h) ((hImm16sp h).extractLsb' 5 1) (hRd h)
      ((hImm16sp h).extractLsb' 0 1 ++ (hImm16sp h).extractLsb' 2 1 ++ (hImm16sp h).extractLsb' 3 2 ++
        (hImm16sp h).extractLsb' 1 1) (hQuadrant h) = h := by
  apply BitVec.eq_of_getLsbD_eq
  intro i hi
  simp only [encCI, hFunct3, hImm16sp, hRd, hQuadrant, BitVec.getLsbD_extractLsb',
    BitVec.getLsbD_append]
  interval_cases i <;> simp

theorem parcel_lwsp (h : Parcel) :
    encCI (hFunct3 h) ((hImmLwsp h).extractLsb' 3 1) (hRd h)
      ((hImmLwsp h).extractLsb' 0 3 ++ (hImmLwsp h).extractLsb' 4 2) (hQuadrant h) = h := by
  apply BitVec.eq_of_getLsbD_eq
  intro i hi
  simp only [encCI, hFunct3, hImmLwsp, hRd, hQuadrant, BitVec.getLsbD_extractLsb',
    BitVec.getLsbD_append]
  interval_cases i <;> simp

theorem parcel_lcsp (h : Parcel) :
    encCI (hFunct3 h) ((hImmLcsp h).extractLsb' 2 1) (hRd h)
      ((hImmLcsp h).extractLsb' 0 2 ++ (hImmLcsp h).extractLsb' 3 3) (hQuadrant h) = h := by
  apply BitVec.eq_of_getLsbD_eq
  intro i hi
  simp only [encCI, hFunct3, hImmLcsp, hRd, hQuadrant, BitVec.getLsbD_extractLsb',
    BitVec.getLsbD_append]
  interval_cases i <;> simp

theorem parcel_swsp (h : Parcel) :
    hFunct3 h ++ ((hImmSwsp h).extractLsb' 0 4 ++ (hImmSwsp h).extractLsb' 4 2) ++ hRs2 h ++
      hQuadrant h = h := by
  apply BitVec.eq_of_getLsbD_eq
  intro i hi
  simp only [hFunct3, hImmSwsp, hRs2, hQuadrant, BitVec.getLsbD_extractLsb',
    BitVec.getLsbD_append]
  interval_cases i <;> simp

theorem parcel_scsp (h : Parcel) :
    hFunct3 h ++ ((hImmScsp h).extractLsb' 0 3 ++ (hImmScsp h).extractLsb' 3 3) ++ hRs2 h ++
      hQuadrant h = h := by
  apply BitVec.eq_of_getLsbD_eq
  intro i hi
  simp only [hFunct3, hImmScsp, hRs2, hQuadrant, BitVec.getLsbD_extractLsb',
    BitVec.getLsbD_append]
  interval_cases i <;> simp

theorem parcel_CR (h : Parcel) :
    hFunct3 h ++ hBit12 h ++ hRd h ++ hRs2 h ++ hQuadrant h = h := by
  apply BitVec.eq_of_getLsbD_eq
  intro i hi
  simp only [hFunct3, hBit12, hRd, hRs2, hQuadrant, BitVec.getLsbD_extractLsb',
    BitVec.getLsbD_append]
  interval_cases i <;> simp

/-! ## Bytes -/

@[simp] theorem word_of_bytes (w : Word) :
    w.extractLsb' 24 8 ++ w.extractLsb' 16 8 ++ w.extractLsb' 8 8 ++ w.extractLsb' 0 8 = w := by
  apply BitVec.eq_of_getLsbD_eq
  intro i hi
  simp only [BitVec.getLsbD_extractLsb',
    BitVec.getLsbD_append]
  interval_cases i <;> simp

@[simp] theorem parcel_of_bytes (h : Parcel) :
    h.extractLsb' 8 8 ++ h.extractLsb' 0 8 = h := by
  apply BitVec.eq_of_getLsbD_eq
  intro i hi
  simp only [BitVec.getLsbD_extractLsb',
    BitVec.getLsbD_append]
  interval_cases i <;> simp

theorem firstParcel_of_word (w : Word) :
    w.extractLsb' 8 8 ++ w.extractLsb' 0 8 = w.extractLsb' 0 16 := by
  apply BitVec.eq_of_getLsbD_eq
  intro i hi
  simp only [BitVec.getLsbD_extractLsb',
    BitVec.getLsbD_append]
  interval_cases i <;> simp

theorem hQuadrant_of_word (w : Word) :
    hQuadrant (w.extractLsb' 0 16) = (fOpcode w).extractLsb' 0 2 := by
  apply BitVec.eq_of_getLsbD_eq
  intro i hi
  simp only [hQuadrant, fOpcode, BitVec.getLsbD_extractLsb',
    BitVec.getLsbD_append]
  interval_cases i <;> simp

theorem hPrefix_of_word (w : Word) :
    (w.extractLsb' 0 16).extractLsb' 2 3 = (fOpcode w).extractLsb' 2 3 := by
  apply BitVec.eq_of_getLsbD_eq
  intro i hi
  simp only [fOpcode, BitVec.getLsbD_extractLsb',
    BitVec.getLsbD_append]
  interval_cases i <;> simp

/-- Bytes that decode as a 32-bit word: the opcode announces four bytes (R170). -/
theorem decode_wordBytes (w : Word) (rest : List Byte)
    (h3 : (fOpcode w).extractLsb' 0 2 = 3#2) (h7 : (fOpcode w).extractLsb' 2 3 ≠ 7#3) :
    decode (wordBytes w ++ rest) = decodeWord w := by
  simp only [wordBytes, List.cons_append, List.nil_append, decode]
  rw [firstParcel_of_word, hQuadrant_of_word, hPrefix_of_word, if_pos h3, if_neg h7, word_of_bytes]

/-- Bytes that decode as a 16-bit parcel (R170). -/
theorem decode_parcelBytes (h : Parcel) (rest : List Byte) (hq : hQuadrant h ≠ 3#2) :
    decode ([h.extractLsb' 0 8, h.extractLsb' 8 8] ++ rest) = decodeParcel h := by
  simp only [List.cons_append, List.nil_append, decode]
  rw [parcel_of_bytes, if_neg hq]

end Sys2Proof
end

