-- ==== Sys2Proof/Laws/State.lean ====
section
/-! SUPPORT. One lemma per field per update of the state, true by rfl, so that no proof unfolds a
record update; and what a register reads after each update. -/

namespace Sys2Proof.Machine

/-! ## setReg -/

@[simp] theorem State.setReg_regs (s : State) (d : Reg) (v : Cap) :
    (s.setReg d v).regs = s.regs.set d v := rfl
@[simp] theorem State.setReg_pcc (s : State) (d : Reg) (v : Cap) : (s.setReg d v).pcc = s.pcc := rfl
@[simp] theorem State.setReg_pc (s : State) (d : Reg) (v : Cap) : (s.setReg d v).pc = s.pc := rfl
@[simp] theorem State.setReg_mtcc (s : State) (d : Reg) (v : Cap) :
    (s.setReg d v).mtcc = s.mtcc := rfl
@[simp] theorem State.setReg_mtdc (s : State) (d : Reg) (v : Cap) :
    (s.setReg d v).mtdc = s.mtdc := rfl
@[simp] theorem State.setReg_mscratchc (s : State) (d : Reg) (v : Cap) :
    (s.setReg d v).mscratchc = s.mscratchc := rfl
@[simp] theorem State.setReg_mepcc (s : State) (d : Reg) (v : Cap) :
    (s.setReg d v).mepcc = s.mepcc := rfl
@[simp] theorem State.setReg_mstatusMie (s : State) (d : Reg) (v : Cap) :
    (s.setReg d v).mstatusMie = s.mstatusMie := rfl
@[simp] theorem State.setReg_mstatusMpie (s : State) (d : Reg) (v : Cap) :
    (s.setReg d v).mstatusMpie = s.mstatusMpie := rfl
@[simp] theorem State.setReg_mie (s : State) (d : Reg) (v : Cap) : (s.setReg d v).mie = s.mie := rfl
@[simp] theorem State.setReg_mip (s : State) (d : Reg) (v : Cap) : (s.setReg d v).mip = s.mip := rfl
@[simp] theorem State.setReg_mcause (s : State) (d : Reg) (v : Cap) :
    (s.setReg d v).mcause = s.mcause := rfl
@[simp] theorem State.setReg_mtval (s : State) (d : Reg) (v : Cap) :
    (s.setReg d v).mtval = s.mtval := rfl
@[simp] theorem State.setReg_mscratch (s : State) (d : Reg) (v : Cap) :
    (s.setReg d v).mscratch = s.mscratch := rfl
@[simp] theorem State.setReg_mshwm (s : State) (d : Reg) (v : Cap) :
    (s.setReg d v).mshwm = s.mshwm := rfl
@[simp] theorem State.setReg_mshwmb (s : State) (d : Reg) (v : Cap) :
    (s.setReg d v).mshwmb = s.mshwmb := rfl
@[simp] theorem State.setReg_mcycle (s : State) (d : Reg) (v : Cap) :
    (s.setReg d v).mcycle = s.mcycle := rfl
@[simp] theorem State.setReg_minstret (s : State) (d : Reg) (v : Cap) :
    (s.setReg d v).minstret = s.minstret := rfl
@[simp] theorem State.setReg_time (s : State) (d : Reg) (v : Cap) :
    (s.setReg d v).time = s.time := rfl
@[simp] theorem State.setReg_hpm (s : State) (d : Reg) (v : Cap) : (s.setReg d v).hpm = s.hpm := rfl
@[simp] theorem State.setReg_mem (s : State) (d : Reg) (v : Cap) : (s.setReg d v).mem = s.mem := rfl
@[simp] theorem State.setReg_codeMem (s : State) (d : Reg) (v : Cap) :
    (s.setReg d v).codeMem = s.codeMem := rfl
@[simp] theorem State.setReg_unfenced (s : State) (d : Reg) (v : Cap) :
    (s.setReg d v).unfenced = s.unfenced := rfl
@[simp] theorem State.setReg_tags (s : State) (d : Reg) (v : Cap) :
    (s.setReg d v).tags = s.tags := rfl
@[simp] theorem State.setReg_draws (s : State) (d : Reg) (v : Cap) :
    (s.setReg d v).draws = s.draws := rfl
@[simp] theorem State.setReg_platform (s : State) (d : Reg) (v : Cap) :
    (s.setReg d v).platform = s.platform := rfl

/-! ## setX -/

@[simp] theorem State.setX_regs (s : State) (d : Reg) (v : Word) :
    (s.setX d v).regs = s.regs.set d (nullWith v) := rfl
@[simp] theorem State.setX_pcc (s : State) (d : Reg) (v : Word) : (s.setX d v).pcc = s.pcc := rfl
@[simp] theorem State.setX_pc (s : State) (d : Reg) (v : Word) : (s.setX d v).pc = s.pc := rfl
@[simp] theorem State.setX_mtcc (s : State) (d : Reg) (v : Word) : (s.setX d v).mtcc = s.mtcc := rfl
@[simp] theorem State.setX_mtdc (s : State) (d : Reg) (v : Word) : (s.setX d v).mtdc = s.mtdc := rfl
@[simp] theorem State.setX_mscratchc (s : State) (d : Reg) (v : Word) :
    (s.setX d v).mscratchc = s.mscratchc := rfl
@[simp] theorem State.setX_mepcc (s : State) (d : Reg) (v : Word) :
    (s.setX d v).mepcc = s.mepcc := rfl
@[simp] theorem State.setX_mstatusMie (s : State) (d : Reg) (v : Word) :
    (s.setX d v).mstatusMie = s.mstatusMie := rfl
@[simp] theorem State.setX_mstatusMpie (s : State) (d : Reg) (v : Word) :
    (s.setX d v).mstatusMpie = s.mstatusMpie := rfl
@[simp] theorem State.setX_mie (s : State) (d : Reg) (v : Word) : (s.setX d v).mie = s.mie := rfl
@[simp] theorem State.setX_mip (s : State) (d : Reg) (v : Word) : (s.setX d v).mip = s.mip := rfl
@[simp] theorem State.setX_mcause (s : State) (d : Reg) (v : Word) :
    (s.setX d v).mcause = s.mcause := rfl
@[simp] theorem State.setX_mtval (s : State) (d : Reg) (v : Word) :
    (s.setX d v).mtval = s.mtval := rfl
@[simp] theorem State.setX_mscratch (s : State) (d : Reg) (v : Word) :
    (s.setX d v).mscratch = s.mscratch := rfl
@[simp] theorem State.setX_mshwm (s : State) (d : Reg) (v : Word) :
    (s.setX d v).mshwm = s.mshwm := rfl
@[simp] theorem State.setX_mshwmb (s : State) (d : Reg) (v : Word) :
    (s.setX d v).mshwmb = s.mshwmb := rfl
@[simp] theorem State.setX_mcycle (s : State) (d : Reg) (v : Word) :
    (s.setX d v).mcycle = s.mcycle := rfl
@[simp] theorem State.setX_minstret (s : State) (d : Reg) (v : Word) :
    (s.setX d v).minstret = s.minstret := rfl
@[simp] theorem State.setX_time (s : State) (d : Reg) (v : Word) : (s.setX d v).time = s.time := rfl
@[simp] theorem State.setX_hpm (s : State) (d : Reg) (v : Word) : (s.setX d v).hpm = s.hpm := rfl
@[simp] theorem State.setX_mem (s : State) (d : Reg) (v : Word) : (s.setX d v).mem = s.mem := rfl
@[simp] theorem State.setX_codeMem (s : State) (d : Reg) (v : Word) :
    (s.setX d v).codeMem = s.codeMem := rfl
@[simp] theorem State.setX_unfenced (s : State) (d : Reg) (v : Word) :
    (s.setX d v).unfenced = s.unfenced := rfl
@[simp] theorem State.setX_tags (s : State) (d : Reg) (v : Word) : (s.setX d v).tags = s.tags := rfl
@[simp] theorem State.setX_draws (s : State) (d : Reg) (v : Word) :
    (s.setX d v).draws = s.draws := rfl
@[simp] theorem State.setX_platform (s : State) (d : Reg) (v : Word) :
    (s.setX d v).platform = s.platform := rfl

/-! ## advance -/

@[simp] theorem State.advance_regs (s : State) (len : Word) : (s.advance len).regs = s.regs := rfl
@[simp] theorem State.advance_pcc (s : State) (len : Word) : (s.advance len).pcc = s.pcc := rfl
@[simp] theorem State.advance_pc (s : State) (len : Word) : (s.advance len).pc = s.pc + len := rfl
@[simp] theorem State.advance_mtcc (s : State) (len : Word) : (s.advance len).mtcc = s.mtcc := rfl
@[simp] theorem State.advance_mtdc (s : State) (len : Word) : (s.advance len).mtdc = s.mtdc := rfl
@[simp] theorem State.advance_mscratchc (s : State) (len : Word) :
    (s.advance len).mscratchc = s.mscratchc := rfl
@[simp] theorem State.advance_mepcc (s : State) (len : Word) :
    (s.advance len).mepcc = s.mepcc := rfl
@[simp] theorem State.advance_mstatusMie (s : State) (len : Word) :
    (s.advance len).mstatusMie = s.mstatusMie := rfl
@[simp] theorem State.advance_mstatusMpie (s : State) (len : Word) :
    (s.advance len).mstatusMpie = s.mstatusMpie := rfl
@[simp] theorem State.advance_mie (s : State) (len : Word) : (s.advance len).mie = s.mie := rfl
@[simp] theorem State.advance_mip (s : State) (len : Word) : (s.advance len).mip = s.mip := rfl
@[simp] theorem State.advance_mcause (s : State) (len : Word) :
    (s.advance len).mcause = s.mcause := rfl
@[simp] theorem State.advance_mtval (s : State) (len : Word) :
    (s.advance len).mtval = s.mtval := rfl
@[simp] theorem State.advance_mscratch (s : State) (len : Word) :
    (s.advance len).mscratch = s.mscratch := rfl
@[simp] theorem State.advance_mshwm (s : State) (len : Word) :
    (s.advance len).mshwm = s.mshwm := rfl
@[simp] theorem State.advance_mshwmb (s : State) (len : Word) :
    (s.advance len).mshwmb = s.mshwmb := rfl
@[simp] theorem State.advance_mcycle (s : State) (len : Word) :
    (s.advance len).mcycle = s.mcycle := rfl
@[simp] theorem State.advance_minstret (s : State) (len : Word) :
    (s.advance len).minstret = s.minstret := rfl
@[simp] theorem State.advance_time (s : State) (len : Word) : (s.advance len).time = s.time := rfl
@[simp] theorem State.advance_hpm (s : State) (len : Word) : (s.advance len).hpm = s.hpm := rfl
@[simp] theorem State.advance_mem (s : State) (len : Word) : (s.advance len).mem = s.mem := rfl
@[simp] theorem State.advance_codeMem (s : State) (len : Word) :
    (s.advance len).codeMem = s.codeMem := rfl
@[simp] theorem State.advance_unfenced (s : State) (len : Word) :
    (s.advance len).unfenced = s.unfenced := rfl
@[simp] theorem State.advance_tags (s : State) (len : Word) : (s.advance len).tags = s.tags := rfl
@[simp] theorem State.advance_draws (s : State) (len : Word) :
    (s.advance len).draws = s.draws := rfl
@[simp] theorem State.advance_platform (s : State) (len : Word) :
    (s.advance len).platform = s.platform := rfl
@[simp] theorem State.advance_reg (s : State) (len : Word) (r : Reg) :
    (s.advance len).reg r = s.reg r := rfl

/-! ## tick -/

@[simp] theorem State.tick_regs (s : State) : s.tick.regs = s.regs := rfl
@[simp] theorem State.tick_pcc (s : State) : s.tick.pcc = s.pcc := rfl
@[simp] theorem State.tick_pc (s : State) : s.tick.pc = s.pc := rfl
@[simp] theorem State.tick_mtcc (s : State) : s.tick.mtcc = s.mtcc := rfl
@[simp] theorem State.tick_mtdc (s : State) : s.tick.mtdc = s.mtdc := rfl
@[simp] theorem State.tick_mscratchc (s : State) : s.tick.mscratchc = s.mscratchc := rfl
@[simp] theorem State.tick_mepcc (s : State) : s.tick.mepcc = s.mepcc := rfl
@[simp] theorem State.tick_mstatusMie (s : State) : s.tick.mstatusMie = s.mstatusMie := rfl
@[simp] theorem State.tick_mstatusMpie (s : State) : s.tick.mstatusMpie = s.mstatusMpie := rfl
@[simp] theorem State.tick_mie (s : State) : s.tick.mie = s.mie := rfl
@[simp] theorem State.tick_mip (s : State) : s.tick.mip = s.mip := rfl
@[simp] theorem State.tick_mcause (s : State) : s.tick.mcause = s.mcause := rfl
@[simp] theorem State.tick_mtval (s : State) : s.tick.mtval = s.mtval := rfl
@[simp] theorem State.tick_mscratch (s : State) : s.tick.mscratch = s.mscratch := rfl
@[simp] theorem State.tick_mshwm (s : State) : s.tick.mshwm = s.mshwm := rfl
@[simp] theorem State.tick_mshwmb (s : State) : s.tick.mshwmb = s.mshwmb := rfl
@[simp] theorem State.tick_mcycle (s : State) : s.tick.mcycle = s.mcycle := rfl
@[simp] theorem State.tick_minstret (s : State) : s.tick.minstret = s.minstret := rfl
@[simp] theorem State.tick_time (s : State) : s.tick.time = s.time := rfl
@[simp] theorem State.tick_hpm (s : State) : s.tick.hpm = s.hpm := rfl
@[simp] theorem State.tick_mem (s : State) : s.tick.mem = s.mem := rfl
@[simp] theorem State.tick_codeMem (s : State) : s.tick.codeMem = s.codeMem := rfl
@[simp] theorem State.tick_unfenced (s : State) : s.tick.unfenced = s.unfenced := rfl
@[simp] theorem State.tick_tags (s : State) : s.tick.tags = s.tags := rfl
@[simp] theorem State.tick_draws (s : State) : s.tick.draws = s.draws + 1 := rfl
@[simp] theorem State.tick_platform (s : State) : s.tick.platform = s.platform := rfl
@[simp] theorem State.tick_reg (s : State) (r : Reg) :
    s.tick.reg r = s.reg r := rfl

/-! ## setPending -/

@[simp] theorem State.setPending_regs (s : State) (lines : Word) :
    (s.setPending lines).regs = s.regs := rfl
@[simp] theorem State.setPending_pcc (s : State) (lines : Word) :
    (s.setPending lines).pcc = s.pcc := rfl
@[simp] theorem State.setPending_pc (s : State) (lines : Word) :
    (s.setPending lines).pc = s.pc := rfl
@[simp] theorem State.setPending_mtcc (s : State) (lines : Word) :
    (s.setPending lines).mtcc = s.mtcc := rfl
@[simp] theorem State.setPending_mtdc (s : State) (lines : Word) :
    (s.setPending lines).mtdc = s.mtdc := rfl
@[simp] theorem State.setPending_mscratchc (s : State) (lines : Word) :
    (s.setPending lines).mscratchc = s.mscratchc := rfl
@[simp] theorem State.setPending_mepcc (s : State) (lines : Word) :
    (s.setPending lines).mepcc = s.mepcc := rfl
@[simp] theorem State.setPending_mstatusMie (s : State) (lines : Word) :
    (s.setPending lines).mstatusMie = s.mstatusMie := rfl
@[simp] theorem State.setPending_mstatusMpie (s : State) (lines : Word) :
    (s.setPending lines).mstatusMpie = s.mstatusMpie := rfl
@[simp] theorem State.setPending_mie (s : State) (lines : Word) :
    (s.setPending lines).mie = s.mie := rfl
@[simp] theorem State.setPending_mip (s : State) (lines : Word) :
    (s.setPending lines).mip = lines := rfl
@[simp] theorem State.setPending_mcause (s : State) (lines : Word) :
    (s.setPending lines).mcause = s.mcause := rfl
@[simp] theorem State.setPending_mtval (s : State) (lines : Word) :
    (s.setPending lines).mtval = s.mtval := rfl
@[simp] theorem State.setPending_mscratch (s : State) (lines : Word) :
    (s.setPending lines).mscratch = s.mscratch := rfl
@[simp] theorem State.setPending_mshwm (s : State) (lines : Word) :
    (s.setPending lines).mshwm = s.mshwm := rfl
@[simp] theorem State.setPending_mshwmb (s : State) (lines : Word) :
    (s.setPending lines).mshwmb = s.mshwmb := rfl
@[simp] theorem State.setPending_mcycle (s : State) (lines : Word) :
    (s.setPending lines).mcycle = s.mcycle := rfl
@[simp] theorem State.setPending_minstret (s : State) (lines : Word) :
    (s.setPending lines).minstret = s.minstret := rfl
@[simp] theorem State.setPending_time (s : State) (lines : Word) :
    (s.setPending lines).time = s.time := rfl
@[simp] theorem State.setPending_hpm (s : State) (lines : Word) :
    (s.setPending lines).hpm = s.hpm := rfl
@[simp] theorem State.setPending_mem (s : State) (lines : Word) :
    (s.setPending lines).mem = s.mem := rfl
@[simp] theorem State.setPending_codeMem (s : State) (lines : Word) :
    (s.setPending lines).codeMem = s.codeMem := rfl
@[simp] theorem State.setPending_unfenced (s : State) (lines : Word) :
    (s.setPending lines).unfenced = s.unfenced := rfl
@[simp] theorem State.setPending_tags (s : State) (lines : Word) :
    (s.setPending lines).tags = s.tags := rfl
@[simp] theorem State.setPending_draws (s : State) (lines : Word) :
    (s.setPending lines).draws = s.draws := rfl
@[simp] theorem State.setPending_platform (s : State) (lines : Word) :
    (s.setPending lines).platform = s.platform := rfl
@[simp] theorem State.setPending_reg (s : State) (lines : Word) (r : Reg) :
    (s.setPending lines).reg r = s.reg r := rfl

/-! ## enterTrap -/

@[simp] theorem State.enterTrap_regs (s : State) (epcc : Cap) (cause value : Word) :
    (s.enterTrap epcc cause value).regs = s.regs := rfl
@[simp] theorem State.enterTrap_pcc (s : State) (epcc : Cap) (cause value : Word) :
    (s.enterTrap epcc cause value).pcc = s.mtcc := rfl
@[simp] theorem State.enterTrap_pc (s : State) (epcc : Cap) (cause value : Word) :
    (s.enterTrap epcc cause value).pc = s.mtcc.a := rfl
@[simp] theorem State.enterTrap_mtcc (s : State) (epcc : Cap) (cause value : Word) :
    (s.enterTrap epcc cause value).mtcc = s.mtcc := rfl
@[simp] theorem State.enterTrap_mtdc (s : State) (epcc : Cap) (cause value : Word) :
    (s.enterTrap epcc cause value).mtdc = s.mtdc := rfl
@[simp] theorem State.enterTrap_mscratchc (s : State) (epcc : Cap) (cause value : Word) :
    (s.enterTrap epcc cause value).mscratchc = s.mscratchc := rfl
@[simp] theorem State.enterTrap_mepcc (s : State) (epcc : Cap) (cause value : Word) :
    (s.enterTrap epcc cause value).mepcc = epcc := rfl
@[simp] theorem State.enterTrap_mstatusMie (s : State) (epcc : Cap) (cause value : Word) :
    (s.enterTrap epcc cause value).mstatusMie = false := rfl
@[simp] theorem State.enterTrap_mstatusMpie (s : State) (epcc : Cap) (cause value : Word) :
    (s.enterTrap epcc cause value).mstatusMpie = s.mstatusMie := rfl
@[simp] theorem State.enterTrap_mie (s : State) (epcc : Cap) (cause value : Word) :
    (s.enterTrap epcc cause value).mie = s.mie := rfl
@[simp] theorem State.enterTrap_mip (s : State) (epcc : Cap) (cause value : Word) :
    (s.enterTrap epcc cause value).mip = s.mip := rfl
@[simp] theorem State.enterTrap_mcause (s : State) (epcc : Cap) (cause value : Word) :
    (s.enterTrap epcc cause value).mcause = cause := rfl
@[simp] theorem State.enterTrap_mtval (s : State) (epcc : Cap) (cause value : Word) :
    (s.enterTrap epcc cause value).mtval = value := rfl
@[simp] theorem State.enterTrap_mscratch (s : State) (epcc : Cap) (cause value : Word) :
    (s.enterTrap epcc cause value).mscratch = s.mscratch := rfl
@[simp] theorem State.enterTrap_mshwm (s : State) (epcc : Cap) (cause value : Word) :
    (s.enterTrap epcc cause value).mshwm = s.mshwm := rfl
@[simp] theorem State.enterTrap_mshwmb (s : State) (epcc : Cap) (cause value : Word) :
    (s.enterTrap epcc cause value).mshwmb = s.mshwmb := rfl
@[simp] theorem State.enterTrap_mcycle (s : State) (epcc : Cap) (cause value : Word) :
    (s.enterTrap epcc cause value).mcycle = s.mcycle := rfl
@[simp] theorem State.enterTrap_minstret (s : State) (epcc : Cap) (cause value : Word) :
    (s.enterTrap epcc cause value).minstret = s.minstret := rfl
@[simp] theorem State.enterTrap_time (s : State) (epcc : Cap) (cause value : Word) :
    (s.enterTrap epcc cause value).time = s.time := rfl
@[simp] theorem State.enterTrap_hpm (s : State) (epcc : Cap) (cause value : Word) :
    (s.enterTrap epcc cause value).hpm = s.hpm := rfl
@[simp] theorem State.enterTrap_mem (s : State) (epcc : Cap) (cause value : Word) :
    (s.enterTrap epcc cause value).mem = s.mem := rfl
@[simp] theorem State.enterTrap_codeMem (s : State) (epcc : Cap) (cause value : Word) :
    (s.enterTrap epcc cause value).codeMem = s.codeMem := rfl
@[simp] theorem State.enterTrap_unfenced (s : State) (epcc : Cap) (cause value : Word) :
    (s.enterTrap epcc cause value).unfenced = s.unfenced := rfl
@[simp] theorem State.enterTrap_tags (s : State) (epcc : Cap) (cause value : Word) :
    (s.enterTrap epcc cause value).tags = s.tags := rfl
@[simp] theorem State.enterTrap_draws (s : State) (epcc : Cap) (cause value : Word) :
    (s.enterTrap epcc cause value).draws = s.draws := rfl
@[simp] theorem State.enterTrap_platform (s : State) (epcc : Cap) (cause value : Word) :
    (s.enterTrap epcc cause value).platform = s.platform := rfl
@[simp] theorem State.enterTrap_reg (s : State) (epcc : Cap) (cause value : Word) (r : Reg) :
    (s.enterTrap epcc cause value).reg r = s.reg r := rfl

/-! ## trap -/

@[simp] theorem State.trap_regs (s : State) (e : Exc) : (s.trap e).regs = s.regs := rfl
@[simp] theorem State.trap_pcc (s : State) (e : Exc) : (s.trap e).pcc = s.mtcc := rfl
@[simp] theorem State.trap_pc (s : State) (e : Exc) : (s.trap e).pc = s.mtcc.a := rfl
@[simp] theorem State.trap_mtcc (s : State) (e : Exc) : (s.trap e).mtcc = s.mtcc := rfl
@[simp] theorem State.trap_mtdc (s : State) (e : Exc) : (s.trap e).mtdc = s.mtdc := rfl
@[simp] theorem State.trap_mscratchc (s : State) (e : Exc) :
    (s.trap e).mscratchc = s.mscratchc := rfl
@[simp] theorem State.trap_mepcc (s : State) (e : Exc) : (s.trap e).mepcc = s.exceptionPcc e := rfl
@[simp] theorem State.trap_mstatusMie (s : State) (e : Exc) : (s.trap e).mstatusMie = false := rfl
@[simp] theorem State.trap_mstatusMpie (s : State) (e : Exc) :
    (s.trap e).mstatusMpie = s.mstatusMie := rfl
@[simp] theorem State.trap_mie (s : State) (e : Exc) : (s.trap e).mie = s.mie := rfl
@[simp] theorem State.trap_mip (s : State) (e : Exc) : (s.trap e).mip = s.mip := rfl
@[simp] theorem State.trap_mcause (s : State) (e : Exc) : (s.trap e).mcause = e.code := rfl
@[simp] theorem State.trap_mtval (s : State) (e : Exc) :
    (s.trap e).mtval = e.value s.platform := rfl
@[simp] theorem State.trap_mscratch (s : State) (e : Exc) : (s.trap e).mscratch = s.mscratch := rfl
@[simp] theorem State.trap_mshwm (s : State) (e : Exc) : (s.trap e).mshwm = s.mshwm := rfl
@[simp] theorem State.trap_mshwmb (s : State) (e : Exc) : (s.trap e).mshwmb = s.mshwmb := rfl
@[simp] theorem State.trap_mcycle (s : State) (e : Exc) : (s.trap e).mcycle = s.mcycle := rfl
@[simp] theorem State.trap_minstret (s : State) (e : Exc) : (s.trap e).minstret = s.minstret := rfl
@[simp] theorem State.trap_time (s : State) (e : Exc) : (s.trap e).time = s.time := rfl
@[simp] theorem State.trap_hpm (s : State) (e : Exc) : (s.trap e).hpm = s.hpm := rfl
@[simp] theorem State.trap_mem (s : State) (e : Exc) : (s.trap e).mem = s.mem := rfl
@[simp] theorem State.trap_codeMem (s : State) (e : Exc) : (s.trap e).codeMem = s.codeMem := rfl
@[simp] theorem State.trap_unfenced (s : State) (e : Exc) : (s.trap e).unfenced = s.unfenced := rfl
@[simp] theorem State.trap_tags (s : State) (e : Exc) : (s.trap e).tags = s.tags := rfl
@[simp] theorem State.trap_draws (s : State) (e : Exc) : (s.trap e).draws = s.draws := rfl
@[simp] theorem State.trap_platform (s : State) (e : Exc) : (s.trap e).platform = s.platform := rfl
@[simp] theorem State.trap_reg (s : State) (e : Exc) (r : Reg) :
    (s.trap e).reg r = s.reg r := rfl

/-! ## takeInterrupt -/

@[simp] theorem State.takeInterrupt_regs (s : State) (code : Nat) :
    (s.takeInterrupt code).regs = s.regs := rfl
@[simp] theorem State.takeInterrupt_pcc (s : State) (code : Nat) :
    (s.takeInterrupt code).pcc = s.mtcc := rfl
@[simp] theorem State.takeInterrupt_pc (s : State) (code : Nat) :
    (s.takeInterrupt code).pc = s.mtcc.a := rfl
@[simp] theorem State.takeInterrupt_mtcc (s : State) (code : Nat) :
    (s.takeInterrupt code).mtcc = s.mtcc := rfl
@[simp] theorem State.takeInterrupt_mtdc (s : State) (code : Nat) :
    (s.takeInterrupt code).mtdc = s.mtdc := rfl
@[simp] theorem State.takeInterrupt_mscratchc (s : State) (code : Nat) :
    (s.takeInterrupt code).mscratchc = s.mscratchc := rfl
@[simp] theorem State.takeInterrupt_mepcc (s : State) (code : Nat) :
    (s.takeInterrupt code).mepcc = s.pccVal s.pc := rfl
@[simp] theorem State.takeInterrupt_mstatusMie (s : State) (code : Nat) :
    (s.takeInterrupt code).mstatusMie = false := rfl
@[simp] theorem State.takeInterrupt_mstatusMpie (s : State) (code : Nat) :
    (s.takeInterrupt code).mstatusMpie = s.mstatusMie := rfl
@[simp] theorem State.takeInterrupt_mie (s : State) (code : Nat) :
    (s.takeInterrupt code).mie = s.mie := rfl
@[simp] theorem State.takeInterrupt_mip (s : State) (code : Nat) :
    (s.takeInterrupt code).mip = s.mip := rfl
@[simp] theorem State.takeInterrupt_mcause (s : State) (code : Nat) :
    (s.takeInterrupt code).mcause = 0x80000000#32 ||| BitVec.ofNat 32 code := rfl
@[simp] theorem State.takeInterrupt_mtval (s : State) (code : Nat) :
    (s.takeInterrupt code).mtval = 0 := rfl
@[simp] theorem State.takeInterrupt_mscratch (s : State) (code : Nat) :
    (s.takeInterrupt code).mscratch = s.mscratch := rfl
@[simp] theorem State.takeInterrupt_mshwm (s : State) (code : Nat) :
    (s.takeInterrupt code).mshwm = s.mshwm := rfl
@[simp] theorem State.takeInterrupt_mshwmb (s : State) (code : Nat) :
    (s.takeInterrupt code).mshwmb = s.mshwmb := rfl
@[simp] theorem State.takeInterrupt_mcycle (s : State) (code : Nat) :
    (s.takeInterrupt code).mcycle = s.mcycle := rfl
@[simp] theorem State.takeInterrupt_minstret (s : State) (code : Nat) :
    (s.takeInterrupt code).minstret = s.minstret := rfl
@[simp] theorem State.takeInterrupt_time (s : State) (code : Nat) :
    (s.takeInterrupt code).time = s.time := rfl
@[simp] theorem State.takeInterrupt_hpm (s : State) (code : Nat) :
    (s.takeInterrupt code).hpm = s.hpm := rfl
@[simp] theorem State.takeInterrupt_mem (s : State) (code : Nat) :
    (s.takeInterrupt code).mem = s.mem := rfl
@[simp] theorem State.takeInterrupt_codeMem (s : State) (code : Nat) :
    (s.takeInterrupt code).codeMem = s.codeMem := rfl
@[simp] theorem State.takeInterrupt_unfenced (s : State) (code : Nat) :
    (s.takeInterrupt code).unfenced = s.unfenced := rfl
@[simp] theorem State.takeInterrupt_tags (s : State) (code : Nat) :
    (s.takeInterrupt code).tags = s.tags := rfl
@[simp] theorem State.takeInterrupt_draws (s : State) (code : Nat) :
    (s.takeInterrupt code).draws = s.draws := rfl
@[simp] theorem State.takeInterrupt_platform (s : State) (code : Nat) :
    (s.takeInterrupt code).platform = s.platform := rfl
@[simp] theorem State.takeInterrupt_reg (s : State) (code : Nat) (r : Reg) :
    (s.takeInterrupt code).reg r = s.reg r := rfl

/-! ## trapReturn -/

@[simp] theorem State.trapReturn_regs (s : State) : s.trapReturn.regs = s.regs := rfl
@[simp] theorem State.trapReturn_pcc (s : State) : s.trapReturn.pcc = s.mepcc := rfl
@[simp] theorem State.trapReturn_pc (s : State) : s.trapReturn.pc = s.mepcc.a := rfl
@[simp] theorem State.trapReturn_mtcc (s : State) : s.trapReturn.mtcc = s.mtcc := rfl
@[simp] theorem State.trapReturn_mtdc (s : State) : s.trapReturn.mtdc = s.mtdc := rfl
@[simp] theorem State.trapReturn_mscratchc (s : State) : s.trapReturn.mscratchc = s.mscratchc := rfl
@[simp] theorem State.trapReturn_mepcc (s : State) : s.trapReturn.mepcc = s.mepcc := rfl
@[simp] theorem State.trapReturn_mstatusMie (s : State) :
    s.trapReturn.mstatusMie = s.mstatusMpie := rfl
@[simp] theorem State.trapReturn_mstatusMpie (s : State) : s.trapReturn.mstatusMpie = true := rfl
@[simp] theorem State.trapReturn_mie (s : State) : s.trapReturn.mie = s.mie := rfl
@[simp] theorem State.trapReturn_mip (s : State) : s.trapReturn.mip = s.mip := rfl
@[simp] theorem State.trapReturn_mcause (s : State) : s.trapReturn.mcause = s.mcause := rfl
@[simp] theorem State.trapReturn_mtval (s : State) : s.trapReturn.mtval = s.mtval := rfl
@[simp] theorem State.trapReturn_mscratch (s : State) : s.trapReturn.mscratch = s.mscratch := rfl
@[simp] theorem State.trapReturn_mshwm (s : State) : s.trapReturn.mshwm = s.mshwm := rfl
@[simp] theorem State.trapReturn_mshwmb (s : State) : s.trapReturn.mshwmb = s.mshwmb := rfl
@[simp] theorem State.trapReturn_mcycle (s : State) : s.trapReturn.mcycle = s.mcycle := rfl
@[simp] theorem State.trapReturn_minstret (s : State) : s.trapReturn.minstret = s.minstret := rfl
@[simp] theorem State.trapReturn_time (s : State) : s.trapReturn.time = s.time := rfl
@[simp] theorem State.trapReturn_hpm (s : State) : s.trapReturn.hpm = s.hpm := rfl
@[simp] theorem State.trapReturn_mem (s : State) : s.trapReturn.mem = s.mem := rfl
@[simp] theorem State.trapReturn_codeMem (s : State) : s.trapReturn.codeMem = s.codeMem := rfl
@[simp] theorem State.trapReturn_unfenced (s : State) : s.trapReturn.unfenced = s.unfenced := rfl
@[simp] theorem State.trapReturn_tags (s : State) : s.trapReturn.tags = s.tags := rfl
@[simp] theorem State.trapReturn_draws (s : State) : s.trapReturn.draws = s.draws := rfl
@[simp] theorem State.trapReturn_platform (s : State) : s.trapReturn.platform = s.platform := rfl
@[simp] theorem State.trapReturn_reg (s : State) (r : Reg) :
    s.trapReturn.reg r = s.reg r := rfl

/-! ## shwmUpdate -/

@[simp] theorem State.shwmUpdate_regs (s : State) (addr : Word) :
    (s.shwmUpdate addr).regs = s.regs := rfl
@[simp] theorem State.shwmUpdate_pcc (s : State) (addr : Word) :
    (s.shwmUpdate addr).pcc = s.pcc := rfl
@[simp] theorem State.shwmUpdate_pc (s : State) (addr : Word) : (s.shwmUpdate addr).pc = s.pc := rfl
@[simp] theorem State.shwmUpdate_mtcc (s : State) (addr : Word) :
    (s.shwmUpdate addr).mtcc = s.mtcc := rfl
@[simp] theorem State.shwmUpdate_mtdc (s : State) (addr : Word) :
    (s.shwmUpdate addr).mtdc = s.mtdc := rfl
@[simp] theorem State.shwmUpdate_mscratchc (s : State) (addr : Word) :
    (s.shwmUpdate addr).mscratchc = s.mscratchc := rfl
@[simp] theorem State.shwmUpdate_mepcc (s : State) (addr : Word) :
    (s.shwmUpdate addr).mepcc = s.mepcc := rfl
@[simp] theorem State.shwmUpdate_mstatusMie (s : State) (addr : Word) :
    (s.shwmUpdate addr).mstatusMie = s.mstatusMie := rfl
@[simp] theorem State.shwmUpdate_mstatusMpie (s : State) (addr : Word) :
    (s.shwmUpdate addr).mstatusMpie = s.mstatusMpie := rfl
@[simp] theorem State.shwmUpdate_mie (s : State) (addr : Word) :
    (s.shwmUpdate addr).mie = s.mie := rfl
@[simp] theorem State.shwmUpdate_mip (s : State) (addr : Word) :
    (s.shwmUpdate addr).mip = s.mip := rfl
@[simp] theorem State.shwmUpdate_mcause (s : State) (addr : Word) :
    (s.shwmUpdate addr).mcause = s.mcause := rfl
@[simp] theorem State.shwmUpdate_mtval (s : State) (addr : Word) :
    (s.shwmUpdate addr).mtval = s.mtval := rfl
@[simp] theorem State.shwmUpdate_mscratch (s : State) (addr : Word) :
    (s.shwmUpdate addr).mscratch = s.mscratch := rfl
@[simp] theorem State.shwmUpdate_mshwm (s : State) (addr : Word) :
    (s.shwmUpdate addr).mshwm = if s.shwmbWord ≤ addr ∧ addr < s.shwmWord then addr.extractLsb' 4 28 else s.mshwm := rfl
@[simp] theorem State.shwmUpdate_mshwmb (s : State) (addr : Word) :
    (s.shwmUpdate addr).mshwmb = s.mshwmb := rfl
@[simp] theorem State.shwmUpdate_mcycle (s : State) (addr : Word) :
    (s.shwmUpdate addr).mcycle = s.mcycle := rfl
@[simp] theorem State.shwmUpdate_minstret (s : State) (addr : Word) :
    (s.shwmUpdate addr).minstret = s.minstret := rfl
@[simp] theorem State.shwmUpdate_time (s : State) (addr : Word) :
    (s.shwmUpdate addr).time = s.time := rfl
@[simp] theorem State.shwmUpdate_hpm (s : State) (addr : Word) :
    (s.shwmUpdate addr).hpm = s.hpm := rfl
@[simp] theorem State.shwmUpdate_mem (s : State) (addr : Word) :
    (s.shwmUpdate addr).mem = s.mem := rfl
@[simp] theorem State.shwmUpdate_codeMem (s : State) (addr : Word) :
    (s.shwmUpdate addr).codeMem = s.codeMem := rfl
@[simp] theorem State.shwmUpdate_unfenced (s : State) (addr : Word) :
    (s.shwmUpdate addr).unfenced = s.unfenced := rfl
@[simp] theorem State.shwmUpdate_tags (s : State) (addr : Word) :
    (s.shwmUpdate addr).tags = s.tags := rfl
@[simp] theorem State.shwmUpdate_draws (s : State) (addr : Word) :
    (s.shwmUpdate addr).draws = s.draws := rfl
@[simp] theorem State.shwmUpdate_platform (s : State) (addr : Word) :
    (s.shwmUpdate addr).platform = s.platform := rfl
@[simp] theorem State.shwmUpdate_reg (s : State) (addr : Word) (r : Reg) :
    (s.shwmUpdate addr).reg r = s.reg r := rfl

/-! ## memWrite -/

@[simp] theorem State.memWrite_regs (s : State) (addr : Word) (bytes : List Byte) :
    (s.memWrite addr bytes).regs = s.regs := rfl
@[simp] theorem State.memWrite_pcc (s : State) (addr : Word) (bytes : List Byte) :
    (s.memWrite addr bytes).pcc = s.pcc := rfl
@[simp] theorem State.memWrite_pc (s : State) (addr : Word) (bytes : List Byte) :
    (s.memWrite addr bytes).pc = s.pc := rfl
@[simp] theorem State.memWrite_mtcc (s : State) (addr : Word) (bytes : List Byte) :
    (s.memWrite addr bytes).mtcc = s.mtcc := rfl
@[simp] theorem State.memWrite_mtdc (s : State) (addr : Word) (bytes : List Byte) :
    (s.memWrite addr bytes).mtdc = s.mtdc := rfl
@[simp] theorem State.memWrite_mscratchc (s : State) (addr : Word) (bytes : List Byte) :
    (s.memWrite addr bytes).mscratchc = s.mscratchc := rfl
@[simp] theorem State.memWrite_mepcc (s : State) (addr : Word) (bytes : List Byte) :
    (s.memWrite addr bytes).mepcc = s.mepcc := rfl
@[simp] theorem State.memWrite_mstatusMie (s : State) (addr : Word) (bytes : List Byte) :
    (s.memWrite addr bytes).mstatusMie = s.mstatusMie := rfl
@[simp] theorem State.memWrite_mstatusMpie (s : State) (addr : Word) (bytes : List Byte) :
    (s.memWrite addr bytes).mstatusMpie = s.mstatusMpie := rfl
@[simp] theorem State.memWrite_mie (s : State) (addr : Word) (bytes : List Byte) :
    (s.memWrite addr bytes).mie = s.mie := rfl
@[simp] theorem State.memWrite_mip (s : State) (addr : Word) (bytes : List Byte) :
    (s.memWrite addr bytes).mip = s.mip := rfl
@[simp] theorem State.memWrite_mcause (s : State) (addr : Word) (bytes : List Byte) :
    (s.memWrite addr bytes).mcause = s.mcause := rfl
@[simp] theorem State.memWrite_mtval (s : State) (addr : Word) (bytes : List Byte) :
    (s.memWrite addr bytes).mtval = s.mtval := rfl
@[simp] theorem State.memWrite_mscratch (s : State) (addr : Word) (bytes : List Byte) :
    (s.memWrite addr bytes).mscratch = s.mscratch := rfl
@[simp] theorem State.memWrite_mshwm (s : State) (addr : Word) (bytes : List Byte) :
    (s.memWrite addr bytes).mshwm = if s.shwmbWord ≤ addr ∧ addr < s.shwmWord then addr.extractLsb' 4 28 else s.mshwm := rfl
@[simp] theorem State.memWrite_mshwmb (s : State) (addr : Word) (bytes : List Byte) :
    (s.memWrite addr bytes).mshwmb = s.mshwmb := rfl
@[simp] theorem State.memWrite_mcycle (s : State) (addr : Word) (bytes : List Byte) :
    (s.memWrite addr bytes).mcycle = s.mcycle := rfl
@[simp] theorem State.memWrite_minstret (s : State) (addr : Word) (bytes : List Byte) :
    (s.memWrite addr bytes).minstret = s.minstret := rfl
@[simp] theorem State.memWrite_time (s : State) (addr : Word) (bytes : List Byte) :
    (s.memWrite addr bytes).time = s.time := rfl
@[simp] theorem State.memWrite_hpm (s : State) (addr : Word) (bytes : List Byte) :
    (s.memWrite addr bytes).hpm = s.hpm := rfl
@[simp] theorem State.memWrite_mem (s : State) (addr : Word) (bytes : List Byte) :
    (s.memWrite addr bytes).mem = writeBytes s.platform s.mem addr.toNat bytes := rfl
@[simp] theorem State.memWrite_codeMem (s : State) (addr : Word) (bytes : List Byte) :
    (s.memWrite addr bytes).codeMem = s.codeMem := rfl
@[simp] theorem State.memWrite_unfenced (s : State) (addr : Word) (bytes : List Byte) :
    (s.memWrite addr bytes).unfenced = ⟨addr.toNat, bytes⟩ :: s.unfenced := rfl
@[simp] theorem State.memWrite_tags (s : State) (addr : Word) (bytes : List Byte) :
    (s.memWrite addr bytes).tags = clearTags s.platform s.tags addr.toNat bytes.length := rfl
@[simp] theorem State.memWrite_draws (s : State) (addr : Word) (bytes : List Byte) :
    (s.memWrite addr bytes).draws = s.draws := rfl
@[simp] theorem State.memWrite_platform (s : State) (addr : Word) (bytes : List Byte) :
    (s.memWrite addr bytes).platform = s.platform := rfl
@[simp] theorem State.memWrite_reg (s : State) (addr : Word) (bytes : List Byte) (r : Reg) :
    (s.memWrite addr bytes).reg r = s.reg r := rfl

/-! ## memWriteCap -/

@[simp] theorem State.memWriteCap_regs (s : State) (addr : Word) (tag : Bool) (v : Cap) :
    (s.memWriteCap addr tag v).regs = s.regs := rfl
@[simp] theorem State.memWriteCap_pcc (s : State) (addr : Word) (tag : Bool) (v : Cap) :
    (s.memWriteCap addr tag v).pcc = s.pcc := rfl
@[simp] theorem State.memWriteCap_pc (s : State) (addr : Word) (tag : Bool) (v : Cap) :
    (s.memWriteCap addr tag v).pc = s.pc := rfl
@[simp] theorem State.memWriteCap_mtcc (s : State) (addr : Word) (tag : Bool) (v : Cap) :
    (s.memWriteCap addr tag v).mtcc = s.mtcc := rfl
@[simp] theorem State.memWriteCap_mtdc (s : State) (addr : Word) (tag : Bool) (v : Cap) :
    (s.memWriteCap addr tag v).mtdc = s.mtdc := rfl
@[simp] theorem State.memWriteCap_mscratchc (s : State) (addr : Word) (tag : Bool) (v : Cap) :
    (s.memWriteCap addr tag v).mscratchc = s.mscratchc := rfl
@[simp] theorem State.memWriteCap_mepcc (s : State) (addr : Word) (tag : Bool) (v : Cap) :
    (s.memWriteCap addr tag v).mepcc = s.mepcc := rfl
@[simp] theorem State.memWriteCap_mstatusMie (s : State) (addr : Word) (tag : Bool) (v : Cap) :
    (s.memWriteCap addr tag v).mstatusMie = s.mstatusMie := rfl
@[simp] theorem State.memWriteCap_mstatusMpie (s : State) (addr : Word) (tag : Bool) (v : Cap) :
    (s.memWriteCap addr tag v).mstatusMpie = s.mstatusMpie := rfl
@[simp] theorem State.memWriteCap_mie (s : State) (addr : Word) (tag : Bool) (v : Cap) :
    (s.memWriteCap addr tag v).mie = s.mie := rfl
@[simp] theorem State.memWriteCap_mip (s : State) (addr : Word) (tag : Bool) (v : Cap) :
    (s.memWriteCap addr tag v).mip = s.mip := rfl
@[simp] theorem State.memWriteCap_mcause (s : State) (addr : Word) (tag : Bool) (v : Cap) :
    (s.memWriteCap addr tag v).mcause = s.mcause := rfl
@[simp] theorem State.memWriteCap_mtval (s : State) (addr : Word) (tag : Bool) (v : Cap) :
    (s.memWriteCap addr tag v).mtval = s.mtval := rfl
@[simp] theorem State.memWriteCap_mscratch (s : State) (addr : Word) (tag : Bool) (v : Cap) :
    (s.memWriteCap addr tag v).mscratch = s.mscratch := rfl
@[simp] theorem State.memWriteCap_mshwm (s : State) (addr : Word) (tag : Bool) (v : Cap) :
    (s.memWriteCap addr tag v).mshwm = if s.shwmbWord ≤ addr ∧ addr < s.shwmWord then addr.extractLsb' 4 28 else s.mshwm := rfl
@[simp] theorem State.memWriteCap_mshwmb (s : State) (addr : Word) (tag : Bool) (v : Cap) :
    (s.memWriteCap addr tag v).mshwmb = s.mshwmb := rfl
@[simp] theorem State.memWriteCap_mcycle (s : State) (addr : Word) (tag : Bool) (v : Cap) :
    (s.memWriteCap addr tag v).mcycle = s.mcycle := rfl
@[simp] theorem State.memWriteCap_minstret (s : State) (addr : Word) (tag : Bool) (v : Cap) :
    (s.memWriteCap addr tag v).minstret = s.minstret := rfl
@[simp] theorem State.memWriteCap_time (s : State) (addr : Word) (tag : Bool) (v : Cap) :
    (s.memWriteCap addr tag v).time = s.time := rfl
@[simp] theorem State.memWriteCap_hpm (s : State) (addr : Word) (tag : Bool) (v : Cap) :
    (s.memWriteCap addr tag v).hpm = s.hpm := rfl
@[simp] theorem State.memWriteCap_mem (s : State) (addr : Word) (tag : Bool) (v : Cap) :
    (s.memWriteCap addr tag v).mem = writeBytes s.platform s.mem addr.toNat (capBytes v) := rfl
@[simp] theorem State.memWriteCap_codeMem (s : State) (addr : Word) (tag : Bool) (v : Cap) :
    (s.memWriteCap addr tag v).codeMem = s.codeMem := rfl
@[simp] theorem State.memWriteCap_unfenced (s : State) (addr : Word) (tag : Bool) (v : Cap) :
    (s.memWriteCap addr tag v).unfenced = ⟨addr.toNat, capBytes v⟩ :: s.unfenced := rfl
@[simp] theorem State.memWriteCap_tags (s : State) (addr : Word) (tag : Bool) (v : Cap) :
    (s.memWriteCap addr tag v).tags = storeTag s.platform s.tags addr.toNat tag := rfl
@[simp] theorem State.memWriteCap_draws (s : State) (addr : Word) (tag : Bool) (v : Cap) :
    (s.memWriteCap addr tag v).draws = s.draws := rfl
@[simp] theorem State.memWriteCap_platform (s : State) (addr : Word) (tag : Bool) (v : Cap) :
    (s.memWriteCap addr tag v).platform = s.platform := rfl
@[simp] theorem State.memWriteCap_reg (s : State) (addr : Word) (tag : Bool) (v : Cap) (r : Reg) :
    (s.memWriteCap addr tag v).reg r = s.reg r := rfl

/-! ## jumpTo -/

@[simp] theorem State.jumpTo_regs (s : State) (len : Word) (cd cs1 : Reg) (imm : Word) :
    (s.jumpTo len cd cs1 imm).regs = s.regs.set cd (s.link len) := rfl
@[simp] theorem State.jumpTo_pcc (s : State) (len : Word) (cd cs1 : Reg) (imm : Word) :
    (s.jumpTo len cd cs1 imm).pcc = (s.reg cs1).unseal := rfl
@[simp] theorem State.jumpTo_pc (s : State) (len : Word) (cd cs1 : Reg) (imm : Word) :
    (s.jumpTo len cd cs1 imm).pc = ((s.reg cs1).a + imm) &&& 0xFFFFFFFE := rfl
@[simp] theorem State.jumpTo_mtcc (s : State) (len : Word) (cd cs1 : Reg) (imm : Word) :
    (s.jumpTo len cd cs1 imm).mtcc = s.mtcc := rfl
@[simp] theorem State.jumpTo_mtdc (s : State) (len : Word) (cd cs1 : Reg) (imm : Word) :
    (s.jumpTo len cd cs1 imm).mtdc = s.mtdc := rfl
@[simp] theorem State.jumpTo_mscratchc (s : State) (len : Word) (cd cs1 : Reg) (imm : Word) :
    (s.jumpTo len cd cs1 imm).mscratchc = s.mscratchc := rfl
@[simp] theorem State.jumpTo_mepcc (s : State) (len : Word) (cd cs1 : Reg) (imm : Word) :
    (s.jumpTo len cd cs1 imm).mepcc = s.mepcc := rfl
@[simp] theorem State.jumpTo_mstatusMie (s : State) (len : Word) (cd cs1 : Reg) (imm : Word) :
    (s.jumpTo len cd cs1 imm).mstatusMie = sentryMie (s.reg cs1).archotype s.mstatusMie := rfl
@[simp] theorem State.jumpTo_mstatusMpie (s : State) (len : Word) (cd cs1 : Reg) (imm : Word) :
    (s.jumpTo len cd cs1 imm).mstatusMpie = s.mstatusMpie := rfl
@[simp] theorem State.jumpTo_mie (s : State) (len : Word) (cd cs1 : Reg) (imm : Word) :
    (s.jumpTo len cd cs1 imm).mie = s.mie := rfl
@[simp] theorem State.jumpTo_mip (s : State) (len : Word) (cd cs1 : Reg) (imm : Word) :
    (s.jumpTo len cd cs1 imm).mip = s.mip := rfl
@[simp] theorem State.jumpTo_mcause (s : State) (len : Word) (cd cs1 : Reg) (imm : Word) :
    (s.jumpTo len cd cs1 imm).mcause = s.mcause := rfl
@[simp] theorem State.jumpTo_mtval (s : State) (len : Word) (cd cs1 : Reg) (imm : Word) :
    (s.jumpTo len cd cs1 imm).mtval = s.mtval := rfl
@[simp] theorem State.jumpTo_mscratch (s : State) (len : Word) (cd cs1 : Reg) (imm : Word) :
    (s.jumpTo len cd cs1 imm).mscratch = s.mscratch := rfl
@[simp] theorem State.jumpTo_mshwm (s : State) (len : Word) (cd cs1 : Reg) (imm : Word) :
    (s.jumpTo len cd cs1 imm).mshwm = s.mshwm := rfl
@[simp] theorem State.jumpTo_mshwmb (s : State) (len : Word) (cd cs1 : Reg) (imm : Word) :
    (s.jumpTo len cd cs1 imm).mshwmb = s.mshwmb := rfl
@[simp] theorem State.jumpTo_mcycle (s : State) (len : Word) (cd cs1 : Reg) (imm : Word) :
    (s.jumpTo len cd cs1 imm).mcycle = s.mcycle := rfl
@[simp] theorem State.jumpTo_minstret (s : State) (len : Word) (cd cs1 : Reg) (imm : Word) :
    (s.jumpTo len cd cs1 imm).minstret = s.minstret := rfl
@[simp] theorem State.jumpTo_time (s : State) (len : Word) (cd cs1 : Reg) (imm : Word) :
    (s.jumpTo len cd cs1 imm).time = s.time := rfl
@[simp] theorem State.jumpTo_hpm (s : State) (len : Word) (cd cs1 : Reg) (imm : Word) :
    (s.jumpTo len cd cs1 imm).hpm = s.hpm := rfl
@[simp] theorem State.jumpTo_mem (s : State) (len : Word) (cd cs1 : Reg) (imm : Word) :
    (s.jumpTo len cd cs1 imm).mem = s.mem := rfl
@[simp] theorem State.jumpTo_codeMem (s : State) (len : Word) (cd cs1 : Reg) (imm : Word) :
    (s.jumpTo len cd cs1 imm).codeMem = s.codeMem := rfl
@[simp] theorem State.jumpTo_unfenced (s : State) (len : Word) (cd cs1 : Reg) (imm : Word) :
    (s.jumpTo len cd cs1 imm).unfenced = s.unfenced := rfl
@[simp] theorem State.jumpTo_tags (s : State) (len : Word) (cd cs1 : Reg) (imm : Word) :
    (s.jumpTo len cd cs1 imm).tags = s.tags := rfl
@[simp] theorem State.jumpTo_draws (s : State) (len : Word) (cd cs1 : Reg) (imm : Word) :
    (s.jumpTo len cd cs1 imm).draws = s.draws := rfl
@[simp] theorem State.jumpTo_platform (s : State) (len : Word) (cd cs1 : Reg) (imm : Word) :
    (s.jumpTo len cd cs1 imm).platform = s.platform := rfl

/-! ## withFetchWord -/

@[simp] theorem State.withFetchWord_regs (s : State) (nbits w : Nat) :
    (s.withFetchWord nbits w).regs = s.regs := rfl
@[simp] theorem State.withFetchWord_pcc (s : State) (nbits w : Nat) :
    (s.withFetchWord nbits w).pcc = s.pcc := rfl
@[simp] theorem State.withFetchWord_pc (s : State) (nbits w : Nat) :
    (s.withFetchWord nbits w).pc = s.pc := rfl
@[simp] theorem State.withFetchWord_mtcc (s : State) (nbits w : Nat) :
    (s.withFetchWord nbits w).mtcc = s.mtcc := rfl
@[simp] theorem State.withFetchWord_mtdc (s : State) (nbits w : Nat) :
    (s.withFetchWord nbits w).mtdc = s.mtdc := rfl
@[simp] theorem State.withFetchWord_mscratchc (s : State) (nbits w : Nat) :
    (s.withFetchWord nbits w).mscratchc = s.mscratchc := rfl
@[simp] theorem State.withFetchWord_mepcc (s : State) (nbits w : Nat) :
    (s.withFetchWord nbits w).mepcc = s.mepcc := rfl
@[simp] theorem State.withFetchWord_mstatusMie (s : State) (nbits w : Nat) :
    (s.withFetchWord nbits w).mstatusMie = s.mstatusMie := rfl
@[simp] theorem State.withFetchWord_mstatusMpie (s : State) (nbits w : Nat) :
    (s.withFetchWord nbits w).mstatusMpie = s.mstatusMpie := rfl
@[simp] theorem State.withFetchWord_mie (s : State) (nbits w : Nat) :
    (s.withFetchWord nbits w).mie = s.mie := rfl
@[simp] theorem State.withFetchWord_mip (s : State) (nbits w : Nat) :
    (s.withFetchWord nbits w).mip = s.mip := rfl
@[simp] theorem State.withFetchWord_mcause (s : State) (nbits w : Nat) :
    (s.withFetchWord nbits w).mcause = s.mcause := rfl
@[simp] theorem State.withFetchWord_mtval (s : State) (nbits w : Nat) :
    (s.withFetchWord nbits w).mtval = s.mtval := rfl
@[simp] theorem State.withFetchWord_mscratch (s : State) (nbits w : Nat) :
    (s.withFetchWord nbits w).mscratch = s.mscratch := rfl
@[simp] theorem State.withFetchWord_mshwm (s : State) (nbits w : Nat) :
    (s.withFetchWord nbits w).mshwm = s.mshwm := rfl
@[simp] theorem State.withFetchWord_mshwmb (s : State) (nbits w : Nat) :
    (s.withFetchWord nbits w).mshwmb = s.mshwmb := rfl
@[simp] theorem State.withFetchWord_mcycle (s : State) (nbits w : Nat) :
    (s.withFetchWord nbits w).mcycle = s.mcycle := rfl
@[simp] theorem State.withFetchWord_minstret (s : State) (nbits w : Nat) :
    (s.withFetchWord nbits w).minstret = s.minstret := rfl
@[simp] theorem State.withFetchWord_time (s : State) (nbits w : Nat) :
    (s.withFetchWord nbits w).time = s.time := rfl
@[simp] theorem State.withFetchWord_hpm (s : State) (nbits w : Nat) :
    (s.withFetchWord nbits w).hpm = s.hpm := rfl
@[simp] theorem State.withFetchWord_mem (s : State) (nbits w : Nat) :
    (s.withFetchWord nbits w).mem = placeBytes s.mem s.pc.toNat (wordBytes (BitVec.ofNat 32 (w % 2 ^ nbits))) := rfl
@[simp] theorem State.withFetchWord_codeMem (s : State) (nbits w : Nat) :
    (s.withFetchWord nbits w).codeMem = placeBytes s.mem s.pc.toNat (wordBytes (BitVec.ofNat 32 (w % 2 ^ nbits))) := rfl
@[simp] theorem State.withFetchWord_unfenced (s : State) (nbits w : Nat) :
    (s.withFetchWord nbits w).unfenced = [] := rfl
@[simp] theorem State.withFetchWord_tags (s : State) (nbits w : Nat) :
    (s.withFetchWord nbits w).tags = s.tags := rfl
@[simp] theorem State.withFetchWord_draws (s : State) (nbits w : Nat) :
    (s.withFetchWord nbits w).draws = s.draws := rfl
@[simp] theorem State.withFetchWord_platform (s : State) (nbits w : Nat) :
    (s.withFetchWord nbits w).platform = s.platform := rfl
@[simp] theorem State.withFetchWord_reg (s : State) (nbits w : Nat) (r : Reg) :
    (s.withFetchWord nbits w).reg r = s.reg r := rfl

/-! ## link -/

@[simp] theorem State.link_tag (s : State) (len : Word) :
    (s.link len).tag = (s.pcc.tag && s.pcc.representable (s.pc + len)) := rfl
@[simp] theorem State.link_a (s : State) (len : Word) : (s.link len).a = s.pc + len := rfl
@[simp] theorem State.link_otype (s : State) (len : Word) :
    (s.link len).otype = linkOtype s.mstatusMie := rfl
@[simp] theorem State.link_perms (s : State) (len : Word) : (s.link len).perms = s.pcc.perms := rfl
@[simp] theorem State.link_base (s : State) (len : Word) :
    (s.link len).base = (s.pcc.moved (s.pc + len)).base := rfl
@[simp] theorem State.link_top (s : State) (len : Word) :
    (s.link len).top = (s.pcc.moved (s.pc + len)).top := rfl

/-! ## Registers -/

@[simp] theorem Regs.get_c0 (g : Regs) : g.get .c0 = Cap.null := rfl

@[simp] theorem State.reg_c0 (s : State) : s.reg .c0 = Cap.null := rfl

theorem Regs.get_set (g : Regs) (d r : Reg) (v : Cap) :
    (g.set d v).get r = if r = d ∧ d ≠ .c0 then v else g.get r := by
  cases d <;> cases r <;> rfl

/-- A register after a register write: the one written holds the value, `c0` excepted (R32). -/
@[simp] theorem State.reg_setReg (s : State) (d r : Reg) (v : Cap) :
    (s.setReg d v).reg r = if r = d ∧ d ≠ .c0 then v else s.reg r :=
  Regs.get_set s.regs d r v

@[simp] theorem State.reg_setX (s : State) (d r : Reg) (v : Word) :
    (s.setX d v).reg r = if r = d ∧ d ≠ .c0 then nullWith v else s.reg r :=
  Regs.get_set s.regs d r (nullWith v)

@[simp] theorem State.reg_jumpTo (s : State) (len : Word) (cd cs1 r : Reg) (imm : Word) :
    (s.jumpTo len cd cs1 imm).reg r = if r = cd ∧ cd ≠ .c0 then s.link len else s.reg r :=
  Regs.get_set s.regs cd r (s.link len)

/-- A write to `c0` is discarded (R32). -/
@[simp] theorem State.setReg_c0 (s : State) (v : Cap) : s.setReg .c0 v = s := rfl

end Sys2Proof.Machine
end

