-- ==== Sys2Proof/Laws/Ops.lean ====
section
/-! SUPPORT. What each shared operation can do, said once: if it answers a next state, then that state
is one of these. Later proofs cite these lemmas and do not unfold the operations. -/

namespace Sys2Proof.Machine

variable {s t : State}

/-! ## Ways to end -/

theorem next_inj {a b : State} (h : (Host.Outcome.next a : Result) = .next b) : b = a := by
  cases h; rfl

theorem raise_next {e : Exc} (h : raise e s = .next t) : t = s.trap e := next_inj h

theorem raiseIllegal_next {i : Instr} (h : raiseIllegal i s = .next t) :
    t = s.trap (.illegal (encode i).bits) := next_inj h

theorem finishX_next {len : Word} {rd : Reg} {v : Word} (h : finishX len rd v s = .next t) :
    t = (s.setX rd v).advance len := next_inj h

theorem finishC_next {len : Word} {cd : Reg} {v : Cap} (h : finishC len cd v s = .next t) :
    t = (s.setReg cd v).advance len := next_inj h

theorem opNone_next {len : Word} (h : opNone len s = .next t) : t = s.advance len := next_inj h

theorem opBreakpoint_next (h : opBreakpoint s = .next t) : t = s.trap (.breakpoint s.pc) :=
  next_inj h

/-! ## Computations -/

theorem opImm_next {f : Word → Word → Word} {len : Word} {rd rs1 : Reg} {imm : Word}
    (h : opImm f len rd rs1 imm s = .next t) : t = (s.setX rd (f (s.x rs1) imm)).advance len :=
  next_inj h

theorem opReg_next {f : Word → Word → Word} {len : Word} {rd rs1 rs2 : Reg}
    (h : opReg f len rd rs1 rs2 s = .next t) :
    t = (s.setX rd (f (s.x rs1) (s.x rs2))).advance len := next_inj h

theorem opM_next {i : Instr} {f : Word → Word → Word} {rd rs1 rs2 : Reg}
    (h : opM i f rd rs1 rs2 s = .next t) :
    s.platform.hasM = true ∧ t = (s.setX rd (f (s.x rs1) (s.x rs2))).advance 4 ∨
      s.platform.hasM = false ∧ t = s.trap (.illegal (encode i).bits) := by
  unfold opM at h
  split at h
  · exact .inl ⟨‹_›, next_inj h⟩
  · exact .inr ⟨eq_false_of_ne_true ‹_›, next_inj h⟩

theorem opQuery_next {f : Cap → Word} {rd cs1 : Reg} (h : opQuery f rd cs1 s = .next t) :
    t = (s.setX rd (f (s.reg cs1))).advance 4 := next_inj h

theorem opIncAddr_next {len : Word} {cd cs1 : Reg} {d : Word}
    (h : opIncAddr len cd cs1 d s = .next t) :
    t = (s.setReg cd ((s.reg cs1).withAddr (s.x cs1 + d))).advance len := next_inj h

theorem opMove_next {len : Word} {cd cs1 : Reg} (h : opMove len cd cs1 s = .next t) :
    t = (s.setReg cd (s.reg cs1)).advance len := next_inj h

/-! ## Control transfer -/

theorem opCjal_next {len : Word} {cd : Reg} {off : Word} (h : opCjal len cd off s = .next t) :
    t = { s.setReg cd (s.link len) with pc := s.pc + off } := next_inj h

theorem opBranch_next {cond : Word → Word → Bool} {len : Word} {rs1 rs2 : Reg} {off : Word}
    (h : opBranch cond len rs1 rs2 off s = .next t) :
    cond (s.x rs1) (s.x rs2) = true ∧ t = { s with pc := s.pc + off } ∨
      cond (s.x rs1) (s.x rs2) = false ∧ t = s.advance len := by
  unfold opBranch at h
  split at h
  · exact .inl ⟨‹_›, next_inj h⟩
  · exact .inr ⟨eq_false_of_ne_true ‹_›, next_inj h⟩

theorem opCjalr_next {len : Word} {cd cs1 : Reg} {imm : Word}
    (h : opCjalr len cd cs1 imm s = .next t) :
    (∃ e, s.checkJump cd cs1 imm = some e ∧ t = s.trap e) ∨
      s.checkJump cd cs1 imm = none ∧ t = s.jumpTo len cd cs1 imm := by
  unfold opCjalr at h
  split at h
  · exact .inl ⟨_, ‹_›, next_inj h⟩
  · exact .inr ⟨‹_›, next_inj h⟩

/-- A target that passes the check is tagged and executable, of an otype the jump accepts, and a
sentry is entered without an offset (R286). -/
theorem checkJump_none {cd cs1 : Reg} {imm : Word} (h : s.checkJump cd cs1 imm = none) :
    (s.reg cs1).tag = true ∧ (s.reg cs1).archotype ∈ validOtypes cs1 cd ∧
      ((s.reg cs1).archotype = 0 ∨ imm = 0) ∧ (s.reg cs1).isExec = true := by
  unfold State.checkJump at h
  simp only at h
  repeat' split at h
  all_goals simp_all
  tauto

/-! ## Loads and stores -/

theorem opLoad_next {k : LoadKind} {len : Word} {rd cs1 : Reg} {imm : Word}
    (h : opLoad k len rd cs1 imm s = .next t) :
    (∃ e, s.checkAccess .loadInt cs1 imm k.size = some e ∧ t = s.trap e) ∨
      s.checkAccess .loadInt cs1 imm k.size = none ∧
        t = (s.setX rd (s.loadValue k (s.dataAddr cs1 imm).toNat)).advance len := by
  unfold opLoad at h
  split at h
  · exact .inl ⟨_, ‹_›, next_inj h⟩
  · exact .inr ⟨‹_›, next_inj h⟩

theorem opLoadCap_next {len : Word} {cd cs1 : Reg} {imm : Word}
    (h : opLoadCap len cd cs1 imm s = .next t) :
    (∃ e, s.checkAccess .loadCap cs1 imm 8 = some e ∧ t = s.trap e) ∨
      s.checkAccess .loadCap cs1 imm 8 = none ∧
        t = (s.setReg cd (s.loadedCap (s.reg cs1)
          (s.loadCap (s.dataAddr cs1 imm).toNat))).advance len := by
  unfold opLoadCap at h
  split at h
  · exact .inl ⟨_, ‹_›, next_inj h⟩
  · exact .inr ⟨‹_›, next_inj h⟩

theorem opStore_next {n : Nat} {len : Word} {rs2 cs1 : Reg} {imm : Word}
    (h : opStore n len rs2 cs1 imm s = .next t) :
    (∃ e, s.checkAccess .storeInt cs1 imm n = some e ∧ t = s.trap e) ∨
      s.checkAccess .storeInt cs1 imm n = none ∧
        t = (s.memWrite (s.dataAddr cs1 imm) ((wordBytes (s.x rs2)).take n)).advance len := by
  unfold opStore at h
  split at h
  · exact .inl ⟨_, ‹_›, next_inj h⟩
  · exact .inr ⟨‹_›, next_inj h⟩

theorem opStoreCap_next {len : Word} {cs2 cs1 : Reg} {imm : Word}
    (h : opStoreCap len cs2 cs1 imm s = .next t) :
    (∃ e, s.checkAccess (.storeCap (s.reg cs2).tag) cs1 imm 8 = some e ∧ t = s.trap e) ∨
      s.checkAccess (.storeCap (s.reg cs2).tag) cs1 imm 8 = none ∧
        t = (s.memWriteCap (s.dataAddr cs1 imm) (storedTag (s.reg cs1) (s.reg cs2))
          (s.reg cs2)).advance len := by
  unfold opStoreCap at h
  split at h
  · exact .inl ⟨_, ‹_›, next_inj h⟩
  · exact .inr ⟨‹_›, next_inj h⟩

/-- What a passing check says of the authority and the address (R300). -/
theorem checkAccess_none {k : AccessKind} {r : Reg} {imm : Word} {n : Nat}
    (h : s.checkAccess k r imm n = none) :
    (s.reg r).tag = true ∧ (s.reg r).isSealed = false ∧
      (k.isLoad = true → (s.reg r).has .ld = true) ∧
      (k.isLoad = false → (s.reg r).has .sd = true) ∧
      (k.needsMc = true → (s.reg r).has .mc = true) ∧
      (s.reg r).inBounds (s.dataAddr r imm).toNat n = true ∧
      misaligned s.platform k (s.dataAddr r imm).toNat n = false ∧
      allMapped s.platform (s.dataAddr r imm).toNat n = true := by
  unfold State.checkAccess at h
  simp only at h
  repeat' split at h
  all_goals simp_all

/-- When the check passes (R300): the conditions of `checkAccess_none` suffice. -/
theorem checkAccess_eq_none {k : AccessKind} {r : Reg} {imm : Word} {n : Nat}
    (h1 : (s.reg r).tag = true) (h2 : (s.reg r).isSealed = false)
    (h3 : k.isLoad = true → (s.reg r).has .ld = true)
    (h4 : k.isLoad = false → (s.reg r).has .sd = true)
    (h5 : k.needsMc = true → (s.reg r).has .mc = true)
    (h6 : (s.reg r).inBounds (s.dataAddr r imm).toNat n = true)
    (h7 : misaligned s.platform k (s.dataAddr r imm).toNat n = false)
    (h8 : allMapped s.platform (s.dataAddr r imm).toNat n = true) :
    s.checkAccess k r imm n = none := by
  unfold State.checkAccess
  cases hl : k.isLoad <;> cases hm : k.needsMc <;> simp_all

/-! ## Control and status registers -/

theorem opCsr_next {i : Instr} {addr : BitVec 12} {rd : Reg} {writes : Bool} {f : Word → Word}
    (h : opCsr i addr rd writes f s = .next t) :
    (∃ e, s.checkCsr i addr writes = some e ∧ t = s.trap e) ∨
      s.checkCsr i addr writes = none ∧ t = s.accessCsr addr rd writes f := by
  unfold opCsr at h
  split at h
  · exact .inl ⟨_, ‹_›, next_inj h⟩
  · exact .inr ⟨‹_›, next_inj h⟩

/-- An access that passes the check names a register, does not write a read-only one, and has SR or
is a read of the allowlist (R340). -/
theorem checkCsr_none {i : Instr} {addr : BitVec 12} {writes : Bool}
    (h : s.checkCsr i addr writes = none) :
    ∃ c, csrAt s.platform addr = some c ∧ (writes && csrReadOnly addr) = false ∧
      (s.hasSr || (c.onAllowlist && !writes)) = true := by
  unfold State.checkCsr at h
  split at h
  · simp at h
  · refine ⟨_, ‹_›, ?_⟩
    repeat' split at h
    all_goals simp_all

/-- The state after an access that passes the check (R340 steps 4 to 6). -/
theorem accessCsr_eq {addr : BitVec 12} {rd : Reg} {writes : Bool} {f : Word → Word} {c : Csr}
    (h : csrAt s.platform addr = some c) :
    s.accessCsr addr rd writes f =
      ((if writes then s.writeCsr c (f (s.readCsr c)) else s).setX rd (s.readCsr c)).advance 4 := by
  simp [State.accessCsr, h]

/-! A write of a CSR changes neither registers, PCC, SCRs, memory nor the model's own fields. -/

section WriteCsr
variable (s : State) (c : Csr) (v : Word)

@[simp] theorem State.writeCsr_regs : (s.writeCsr c v).regs = s.regs := by cases c <;> rfl
@[simp] theorem State.writeCsr_reg (r : Reg) : (s.writeCsr c v).reg r = s.reg r := by
  cases c <;> rfl
@[simp] theorem State.writeCsr_pcc : (s.writeCsr c v).pcc = s.pcc := by cases c <;> rfl
@[simp] theorem State.writeCsr_pc : (s.writeCsr c v).pc = s.pc := by cases c <;> rfl
@[simp] theorem State.writeCsr_mtcc : (s.writeCsr c v).mtcc = s.mtcc := by cases c <;> rfl
@[simp] theorem State.writeCsr_mtdc : (s.writeCsr c v).mtdc = s.mtdc := by cases c <;> rfl
@[simp] theorem State.writeCsr_mscratchc : (s.writeCsr c v).mscratchc = s.mscratchc := by
  cases c <;> rfl
@[simp] theorem State.writeCsr_mepcc : (s.writeCsr c v).mepcc = s.mepcc := by cases c <;> rfl
@[simp] theorem State.writeCsr_mem : (s.writeCsr c v).mem = s.mem := by cases c <;> rfl
@[simp] theorem State.writeCsr_codeMem : (s.writeCsr c v).codeMem = s.codeMem := by
  cases c <;> rfl
@[simp] theorem State.writeCsr_unfenced : (s.writeCsr c v).unfenced = s.unfenced := by
  cases c <;> rfl
@[simp] theorem State.writeCsr_tags : (s.writeCsr c v).tags = s.tags := by cases c <;> rfl
@[simp] theorem State.writeCsr_draws : (s.writeCsr c v).draws = s.draws := by cases c <;> rfl
@[simp] theorem State.writeCsr_platform : (s.writeCsr c v).platform = s.platform := by
  cases c <;> rfl
end WriteCsr

/-! A write of an SCR changes nothing but that SCR. -/

section SetScr
variable (s : State) (n : Scr) (v : Cap)

@[simp] theorem State.setScr_regs : (s.setScr n v).regs = s.regs := by cases n <;> rfl
@[simp] theorem State.setScr_reg (r : Reg) : (s.setScr n v).reg r = s.reg r := by cases n <;> rfl
@[simp] theorem State.setScr_pcc : (s.setScr n v).pcc = s.pcc := by cases n <;> rfl
@[simp] theorem State.setScr_pc : (s.setScr n v).pc = s.pc := by cases n <;> rfl
@[simp] theorem State.setScr_mem : (s.setScr n v).mem = s.mem := by cases n <;> rfl
@[simp] theorem State.setScr_codeMem : (s.setScr n v).codeMem = s.codeMem := by cases n <;> rfl
@[simp] theorem State.setScr_unfenced : (s.setScr n v).unfenced = s.unfenced := by
  cases n <;> rfl
@[simp] theorem State.setScr_tags : (s.setScr n v).tags = s.tags := by cases n <;> rfl
@[simp] theorem State.setScr_mstatusMie : (s.setScr n v).mstatusMie = s.mstatusMie := by
  cases n <;> rfl
@[simp] theorem State.setScr_mstatusMpie : (s.setScr n v).mstatusMpie = s.mstatusMpie := by
  cases n <;> rfl
@[simp] theorem State.setScr_draws : (s.setScr n v).draws = s.draws := by cases n <;> rfl
@[simp] theorem State.setScr_platform : (s.setScr n v).platform = s.platform := by cases n <;> rfl
end SetScr

/-- An SCR after an SCR write: the written one holds the legalised value (R348 step 5). -/
theorem State.scr_setScr (s : State) (n m : Scr) (v : Cap) :
    (s.setScr n v).scr m =
      if m = n then
        (match n with | .mtcc => legalMtcc v | .mepcc => legalMepcc v | _ => v)
      else s.scr m := by
  cases n <;> cases m <;> rfl

/-! ## Step -/

/-- What a step can do (R281): an interrupt, a fetch exception, an illegal instruction, or the
decoded instruction. -/
theorem step_next (h : step s = .next t) :
    (∃ code, s.tick.interrupt = some code ∧ t = s.tick.takeInterrupt code) ∨
    s.tick.interrupt = none ∧
      ((∃ e, s.tick.fetch = .error e ∧ t = s.tick.trap e) ∨
       (∃ w e, s.tick.fetch = .ok w ∧ decode w.bytes = .error e ∧
         t = s.tick.trap (.illegal w.bits)) ∨
       (∃ w i, s.tick.fetch = .ok w ∧ decode w.bytes = .ok i ∧ exec i s.tick = .next t)) := by
  unfold step State.act at h
  split at h
  · exact .inl ⟨_, ‹_›, next_inj h⟩
  · refine .inr ⟨‹_›, ?_⟩
    split at h
    · exact .inl ⟨_, ‹_›, next_inj h⟩
    · split at h
      · exact .inr (.inl ⟨_, _, ‹_›, ‹_›, next_inj h⟩)
      · exact .inr (.inr ⟨_, _, ‹_›, ‹_›, h⟩)

end Sys2Proof.Machine
end

