-- ==== Sys2Proof/Laws/Effect.lean ====
section
/-! SUPPORT. Everything an instruction can do to the state, as one inductive, and the lemma that every
instruction does one of these. Invariants over all instructions are proved by cases on it. -/

namespace Sys2Proof.Machine

/-- The capabilities an instruction may write to a general register. -/
inductive Produced (s : State) : Cap → Prop where
  | untagged (v : Cap) (h : v.tag = false) : Produced s v
  | copied (r : Reg) : Produced s (s.reg r)
  | pccMoved (a : Word) : Produced s (s.pcc.withAddr a)
  | moved (r : Reg) (a : Word) : Produced s ((s.reg r).withAddr a)
  | bounded (exactly : Bool) (r : Reg) (l : Word) : Produced s (capSetBounds exactly (s.reg r) l)
  | restricted (r : Reg) (mask : Word) :
      Produced s (capAndPerm s.platform.candpermSealedGlOk (s.reg r) mask)
  | sealed (r k : Reg) : Produced s (capSeal (s.reg r) (s.reg k))
  | unsealed (r k : Reg) : Produced s (capUnseal (s.reg r) (s.reg k))
  | loaded (r : Reg) (imm : Word) (h : s.checkAccess .loadCap r imm 8 = none) :
      Produced s (s.loadedCap (s.reg r) (s.loadCap (s.dataAddr r imm).toNat))

/-- An instruction length in bytes. -/
def isLength (len : Word) : Prop := len = 2 ∨ len = 4

/-- What an instruction can do. -/
inductive Effect (s : State) : State → Prop where
  | trapped (e : Exc) : Effect s (s.trap e)
  | wrote (d : Reg) (v : Cap) (len : Word) (hv : Produced s v) (hl : isLength len) :
      Effect s ((s.setReg d v).advance len)
  | advanced (len : Word) (hl : isLength len) : Effect s (s.advance len)
  | branched (off : Word) (even : off.getLsbD 0 = false) : Effect s { s with pc := s.pc + off }
  | linked (d : Reg) (len off : Word) (even : off.getLsbD 0 = false) (hl : isLength len) :
      Effect s { s.setReg d (s.link len) with pc := s.pc + off }
  | jumped (len : Word) (cd cs1 : Reg) (imm : Word) (h : s.checkJump cd cs1 imm = none)
      (hl : isLength len) : Effect s (s.jumpTo len cd cs1 imm)
  | stored (n : Nat) (r : Reg) (imm : Word) (bytes : List Byte) (len : Word)
      (h : s.checkAccess .storeInt r imm n = none) (hl : isLength len) :
      Effect s ((s.memWrite (s.dataAddr r imm) (bytes.take n)).advance len)
  | storedCap (r v : Reg) (imm len : Word)
      (h : s.checkAccess (.storeCap (s.reg v).tag) r imm 8 = none) (hl : isLength len) :
      Effect s ((s.memWriteCap (s.dataAddr r imm) (storedTag (s.reg r) (s.reg v))
        (s.reg v)).advance len)
  | fetchSynced : Effect s ({ s with codeMem := s.mem, unfenced := [] }.advance 4)
  | returned (h : s.hasSr = true) : Effect s s.trapReturn
  | csrRead (c : Csr) (rd : Reg) (h : (s.hasSr || c.onAllowlist) = true) :
      Effect s ((s.setX rd (s.readCsr c)).advance 4)
  | csrWritten (c : Csr) (rd : Reg) (v : Word) (h : s.hasSr = true) :
      Effect s (((s.writeCsr c v).setX rd (s.readCsr c)).advance 4)
  | scrRead (cd : Reg) (n : Scr) (h : s.hasSr = true) :
      Effect s ((s.setReg cd (s.scr n)).advance 4)
  | scrWritten (cd : Reg) (n : Scr) (r : Reg) (h : s.hasSr = true) :
      Effect s (((s.setScr n (s.reg r)).setReg cd (s.scr n)).advance 4)

variable {s t : State}

theorem isLength_two : isLength 2 := .inl rfl
theorem isLength_four : isLength 4 := .inr rfl

theorem produced_int (v : Word) : Produced s (nullWith v) := .untagged _ rfl

/-! ## The effect of each shared operation -/

theorem finishX_effect {len : Word} {rd : Reg} {v : Word} (h : finishX len rd v s = .next t)
    (hl : isLength len) : Effect s t := by
  rw [finishX_next h]
  exact .wrote rd (nullWith v) len (produced_int v) hl

theorem finishC_effect {len : Word} {cd : Reg} {v : Cap} (h : finishC len cd v s = .next t)
    (hv : Produced s v) (hl : isLength len) : Effect s t := by
  rw [finishC_next h]
  exact .wrote cd v len hv hl

theorem opM_effect {i : Instr} {f : Word → Word → Word} {rd rs1 rs2 : Reg}
    (h : opM i f rd rs1 rs2 s = .next t) : Effect s t := by
  rcases opM_next h with ⟨-, rfl⟩ | ⟨-, rfl⟩
  · exact .wrote rd _ 4 (produced_int _) isLength_four
  · exact .trapped _

theorem opCjal_effect {len : Word} {cd : Reg} {off : Word} (h : opCjal len cd off s = .next t)
    (even : off.getLsbD 0 = false) (hl : isLength len) : Effect s t := by
  rw [opCjal_next h]
  exact .linked cd len off even hl

theorem opBranch_effect {cond : Word → Word → Bool} {len : Word} {rs1 rs2 : Reg} {off : Word}
    (h : opBranch cond len rs1 rs2 off s = .next t) (even : off.getLsbD 0 = false)
    (hl : isLength len) : Effect s t := by
  rcases opBranch_next h with ⟨-, rfl⟩ | ⟨-, rfl⟩
  · exact .branched off even
  · exact .advanced len hl

theorem opCjalr_effect {len : Word} {cd cs1 : Reg} {imm : Word}
    (h : opCjalr len cd cs1 imm s = .next t) (hl : isLength len) : Effect s t := by
  rcases opCjalr_next h with ⟨e, -, rfl⟩ | ⟨hc, rfl⟩
  · exact .trapped e
  · exact .jumped len cd cs1 imm hc hl

theorem opLoad_effect {k : LoadKind} {len : Word} {rd cs1 : Reg} {imm : Word}
    (h : opLoad k len rd cs1 imm s = .next t) (hl : isLength len) : Effect s t := by
  rcases opLoad_next h with ⟨e, -, rfl⟩ | ⟨-, rfl⟩
  · exact .trapped e
  · exact .wrote rd _ len (produced_int _) hl

theorem opLoadCap_effect {len : Word} {cd cs1 : Reg} {imm : Word}
    (h : opLoadCap len cd cs1 imm s = .next t) (hl : isLength len) : Effect s t := by
  rcases opLoadCap_next h with ⟨e, -, rfl⟩ | ⟨hc, rfl⟩
  · exact .trapped e
  · exact .wrote cd _ len (.loaded cs1 imm hc) hl

theorem opStore_effect {n : Nat} {len : Word} {rs2 cs1 : Reg} {imm : Word}
    (h : opStore n len rs2 cs1 imm s = .next t) (hl : isLength len) : Effect s t := by
  rcases opStore_next h with ⟨e, -, rfl⟩ | ⟨hc, rfl⟩
  · exact .trapped e
  · exact .stored n cs1 imm _ len hc hl

theorem opStoreCap_effect {len : Word} {cs2 cs1 : Reg} {imm : Word}
    (h : opStoreCap len cs2 cs1 imm s = .next t) (hl : isLength len) : Effect s t := by
  rcases opStoreCap_next h with ⟨e, -, rfl⟩ | ⟨hc, rfl⟩
  · exact .trapped e
  · exact .storedCap cs1 cs2 imm len hc hl

theorem opCsr_effect {i : Instr} {addr : BitVec 12} {rd : Reg} {writes : Bool} {f : Word → Word}
    (h : opCsr i addr rd writes f s = .next t) : Effect s t := by
  rcases opCsr_next h with ⟨e, -, rfl⟩ | ⟨hc, rfl⟩
  · exact .trapped e
  · obtain ⟨c, hc, -, hp⟩ := checkCsr_none hc
    rw [accessCsr_eq hc]
    cases writes
    · exact .csrRead c rd (by simpa using hp)
    · exact .csrWritten c rd _ (by simpa using hp)

theorem execMret_effect (h : execMret s = .next t) : Effect s t := by
  unfold execMret at h
  split at h
  · rw [next_inj h]
    exact .returned ‹_›
  · rw [raise_next h]
    exact .trapped _

theorem execCspecialrw_effect {cd : Reg} {n : Scr} {cs1 : Reg}
    (h : execCspecialrw cd n cs1 s = .next t) : Effect s t := by
  unfold execCspecialrw at h
  split at h
  · rw [next_inj h]
    unfold State.swapScr
    by_cases hc : cs1 = .c0
    · simpa [hc] using Effect.scrRead cd n ‹_›
    · simpa [hc] using Effect.scrWritten cd n cs1 ‹_›
  · rw [raise_next h]
    exact .trapped _

/-! ## Offsets are even -/

theorem doubled_even {n : Nat} (off : BitVec n) :
    ((off ++ 0#1).signExtend 32).getLsbD 0 = false := by
  rw [BitVec.getLsbD_signExtend, BitVec.getLsbD_append]
  simp

theorem immB_even (off : BitVec 12) : (immB off).getLsbD 0 = false := doubled_even off

theorem immJ_even (off : BitVec 20) : (immJ off).getLsbD 0 = false := doubled_even off

theorem immCJ_even (off : BitVec 11) : (immCJ off).getLsbD 0 = false := doubled_even off

theorem immCB_even (off : BitVec 8) : (immCB off).getLsbD 0 = false := doubled_even off

/-! ## Every instruction -/

/-- Every instruction that answers a next state has one of the effects above. -/
theorem exec_effect {i : Instr} (h : exec i s = .next t) : Effect s t := by
  cases i with
  | lui => exact finishX_effect h isLength_four
  | addi => exact finishX_effect h isLength_four
  | slti => exact finishX_effect h isLength_four
  | sltiu => exact finishX_effect h isLength_four
  | xori => exact finishX_effect h isLength_four
  | ori => exact finishX_effect h isLength_four
  | andi => exact finishX_effect h isLength_four
  | slli => exact finishX_effect h isLength_four
  | srli => exact finishX_effect h isLength_four
  | srai => exact finishX_effect h isLength_four
  | add => exact finishX_effect h isLength_four
  | sub => exact finishX_effect h isLength_four
  | sll => exact finishX_effect h isLength_four
  | slt => exact finishX_effect h isLength_four
  | sltu => exact finishX_effect h isLength_four
  | xor => exact finishX_effect h isLength_four
  | srl => exact finishX_effect h isLength_four
  | sra => exact finishX_effect h isLength_four
  | or => exact finishX_effect h isLength_four
  | and => exact finishX_effect h isLength_four
  | mul => exact opM_effect h
  | mulh => exact opM_effect h
  | mulhsu => exact opM_effect h
  | mulhu => exact opM_effect h
  | div => exact opM_effect h
  | divu => exact opM_effect h
  | rem => exact opM_effect h
  | remu => exact opM_effect h
  | cjal => exact opCjal_effect h (immJ_even _) isLength_four
  | cjalr => exact opCjalr_effect h isLength_four
  | beq => exact opBranch_effect h (immB_even _) isLength_four
  | bne => exact opBranch_effect h (immB_even _) isLength_four
  | blt => exact opBranch_effect h (immB_even _) isLength_four
  | bge => exact opBranch_effect (cond := fun a b => !a.slt b) h (immB_even _) isLength_four
  | bltu => exact opBranch_effect h (immB_even _) isLength_four
  | bgeu => exact opBranch_effect (cond := fun a b => !a.ult b) h (immB_even _) isLength_four
  | clb => exact opLoad_effect h isLength_four
  | clh => exact opLoad_effect h isLength_four
  | clw => exact opLoad_effect h isLength_four
  | clbu => exact opLoad_effect h isLength_four
  | clhu => exact opLoad_effect h isLength_four
  | clc => exact opLoadCap_effect h isLength_four
  | csb => exact opStore_effect h isLength_four
  | csh => exact opStore_effect h isLength_four
  | csw => exact opStore_effect h isLength_four
  | csc => exact opStoreCap_effect h isLength_four
  | fence => rw [opNone_next (len := 4) h]; exact .advanced 4 isLength_four
  | fencei => rw [next_inj h]; exact .fetchSynced
  | ecall => rw [raise_next (e := .envCallM) h]; exact .trapped _
  | ebreak => rw [opBreakpoint_next h]; exact .trapped _
  | wfi => rw [opNone_next (len := 4) h]; exact .advanced 4 isLength_four
  | mret => exact execMret_effect h
  | csrrw => exact opCsr_effect h
  | csrrs => exact opCsr_effect h
  | csrrc => exact opCsr_effect h
  | csrrwi => exact opCsr_effect h
  | csrrsi => exact opCsr_effect h
  | csrrci => exact opCsr_effect h
  | cspecialrw => exact execCspecialrw_effect h
  | auipcc => exact finishC_effect h (.pccMoved _) isLength_four
  | auicgp => exact finishC_effect h (.moved _ _) isLength_four
  | cincaddr => exact finishC_effect h (.moved _ _) isLength_four
  | cincaddrimm => exact finishC_effect h (.moved _ _) isLength_four
  | csetaddr => exact finishC_effect h (.moved _ _) isLength_four
  | csetbounds => exact finishC_effect h (.bounded _ _ _) isLength_four
  | csetboundsexact => exact finishC_effect h (.bounded _ _ _) isLength_four
  | csetboundsimm => exact finishC_effect h (.bounded _ _ _) isLength_four
  | candperm => exact finishC_effect h (.restricted _ _) isLength_four
  | cseal => exact finishC_effect h (.sealed _ _) isLength_four
  | cunseal => exact finishC_effect h (.unsealed _ _) isLength_four
  | cmove => exact finishC_effect h (.copied _) isLength_four
  | ccleartag => exact finishC_effect h (.untagged _ rfl) isLength_four
  | csethigh => exact finishC_effect h (.untagged _ rfl) isLength_four
  | cgetperm => exact finishX_effect h isLength_four
  | cgettype => exact finishX_effect h isLength_four
  | cgetbase => exact finishX_effect h isLength_four
  | cgetlen => exact finishX_effect h isLength_four
  | cgettop => exact finishX_effect h isLength_four
  | cgettag => exact finishX_effect h isLength_four
  | cgetaddr => exact finishX_effect h isLength_four
  | cgethigh => exact finishX_effect h isLength_four
  | csub => exact finishX_effect h isLength_four
  | ctestsubset => exact finishX_effect h isLength_four
  | csetequalexact => exact finishX_effect h isLength_four
  | crrl => exact finishX_effect h isLength_four
  | cram => exact finishX_effect h isLength_four
  | rvcAddi4spn => exact finishC_effect h (.moved _ _) isLength_two
  | rvcLw => exact opLoad_effect h isLength_two
  | rvcLc => exact opLoadCap_effect h isLength_two
  | rvcSw => exact opStore_effect h isLength_two
  | rvcSc => exact opStoreCap_effect h isLength_two
  | rvcNop => exact finishX_effect h isLength_two
  | rvcAddi => exact finishX_effect h isLength_two
  | rvcJal => exact opCjal_effect h (immCJ_even _) isLength_two
  | rvcLi => exact finishX_effect h isLength_two
  | rvcAddi16sp => exact finishC_effect h (.moved _ _) isLength_two
  | rvcLui => exact finishX_effect h isLength_two
  | rvcSrli => exact finishX_effect h isLength_two
  | rvcSrai => exact finishX_effect h isLength_two
  | rvcAndi => exact finishX_effect h isLength_two
  | rvcSub => exact finishX_effect h isLength_two
  | rvcXor => exact finishX_effect h isLength_two
  | rvcOr => exact finishX_effect h isLength_two
  | rvcAnd => exact finishX_effect h isLength_two
  | rvcJ => exact opCjal_effect h (immCJ_even _) isLength_two
  | rvcBeqz => exact opBranch_effect h (immCB_even _) isLength_two
  | rvcBnez => exact opBranch_effect h (immCB_even _) isLength_two
  | rvcSlli => exact finishX_effect h isLength_two
  | rvcLwsp => exact opLoad_effect h isLength_two
  | rvcLcsp => exact opLoadCap_effect h isLength_two
  | rvcJr => exact opCjalr_effect h isLength_two
  | rvcMv => exact finishC_effect h (.copied _) isLength_two
  | rvcEbreak => rw [opBreakpoint_next h]; exact .trapped _
  | rvcJalr => exact opCjalr_effect h isLength_two
  | rvcAdd => exact finishX_effect h isLength_two
  | rvcSwsp => exact opStore_effect h isLength_two
  | rvcScsp => exact opStoreCap_effect h isLength_two

end Sys2Proof.Machine
end

