-- ==== Sys2Proof/Laws/Memory.lean ====
section
/-! SUPPORT. What memory and tags read after each operation, and that every operation keeps their
canonical form. -/

namespace Sys2Proof.Machine

/-! ## Bytes -/

@[simp] theorem Memory.read_nil (a : Nat) : Memory.read [] a = Memory.resetByte := rfl

theorem Memory.read_cons (c : Host.Cell) (m : Memory) (a : Nat) :
    Memory.read (c :: m) a = if c.1 = a then c.2 else Memory.read m a := rfl

theorem Memory.read_eq_resetByte (m : Memory) (a : Nat) (h : ∀ c ∈ m, c.1 ≠ a) :
    m.read a = Memory.resetByte := by
  induction m with
  | nil => rfl
  | cons c m ih =>
    rw [Memory.read_cons, if_neg (h c (by simp))]
    exact ih fun c' hc' => h c' (by simp [hc'])

theorem Memory.mem_erase (m : Memory) (a : Nat) (c : Host.Cell) :
    c ∈ m.erase a ↔ c ∈ m ∧ c.1 ≠ a := by simp [Memory.erase]

theorem Memory.read_erase (m : Memory) (a b : Nat) :
    (m.erase a).read b = if a = b then Memory.resetByte else m.read b := by
  split
  · rename_i h
    exact Memory.read_eq_resetByte _ _ fun c hc => h ▸ ((m.mem_erase a c).1 hc).2
  · rename_i h
    induction m with
    | nil => rfl
    | cons c m ih =>
      rw [Memory.read_cons, ← ih]
      by_cases hc : c.1 = a
      · have hb : c.1 ≠ b := fun e => h (hc ▸ e)
        simp [Memory.erase, hc, h]
      · simp [Memory.erase, hc, Memory.read_cons]

theorem Memory.read_insertCell (m : Memory) (a b : Nat) (v : Byte) (h : ∀ c ∈ m, c.1 ≠ a) :
    (m.insertCell a v).read b = if a = b then v else m.read b := by
  induction m with
  | nil => rfl
  | cons c m ih =>
    obtain ⟨k, w⟩ := c
    have hk : k ≠ a := h (k, w) (by simp)
    have ih := ih fun c hc => h c (by simp [hc])
    simp only [Memory.insertCell]
    split
    · rfl
    · simp only [Memory.read_cons, ih]
      split <;> split <;> simp_all

/-- A read after a write: the byte written where it was written, the old byte elsewhere (R150). -/
theorem Memory.read_write (m : Memory) (a b : Nat) (v : Byte) :
    (m.write a v).read b = if a = b then v else m.read b := by
  simp only [Memory.write]
  split
  · rename_i h
    rw [Memory.read_erase, h]
  · rw [Memory.read_insertCell _ _ _ _ fun c hc => ((m.mem_erase a c).1 hc).2,
      Memory.read_erase]
    split <;> simp_all

theorem Memory.erase_wf (m : Memory) (a : Nat) (h : m.wf) : (m.erase a).wf :=
  ⟨h.1.filter _, fun c hc => h.2 c ((m.mem_erase a c).1 hc).1⟩

theorem Memory.mem_insertCell (m : Memory) (a : Nat) (v : Byte) (c : Host.Cell) :
    c ∈ m.insertCell a v ↔ c = (a, v) ∨ c ∈ m := by
  induction m with
  | nil => simp [Memory.insertCell]
  | cons d m ih =>
    obtain ⟨k, w⟩ := d
    simp only [Memory.insertCell]
    split
    · simp
    · simp only [List.mem_cons, ih]
      tauto

theorem Memory.insertCell_sorted (m : Memory) (a : Nat) (v : Byte)
    (h : m.Pairwise fun x y => x.1 < y.1) (hm : ∀ c ∈ m, c.1 ≠ a) :
    (m.insertCell a v).Pairwise fun x y => x.1 < y.1 := by
  induction m with
  | nil => simp [Memory.insertCell]
  | cons c m ih =>
    obtain ⟨k, w⟩ := c
    have hk : k ≠ a := hm (k, w) (by simp)
    obtain ⟨h1, h2⟩ := List.pairwise_cons.1 h
    simp only [Memory.insertCell]
    split
    · rename_i hlt
      refine List.pairwise_cons.2 ⟨fun c hc => ?_, h⟩
      rcases List.mem_cons.1 hc with rfl | hc
      · exact hlt
      · exact Nat.lt_trans hlt (h1 c hc)
    · rename_i hle
      refine List.pairwise_cons.2 ⟨fun c hc => ?_, ih h2 fun c hc => hm c (by simp [hc])⟩
      rcases (Memory.mem_insertCell m a v c).1 hc with rfl | hc
      · simp; omega
      · exact h1 c hc

/-- A write keeps the canonical form. -/
theorem Memory.write_wf (m : Memory) (a : Nat) (v : Byte) (h : m.wf) : (m.write a v).wf := by
  have he := m.erase_wf a h
  simp only [Memory.write]
  split
  · exact he
  · rename_i hv
    refine ⟨Memory.insertCell_sorted _ _ _ he.1 fun c hc => ((m.mem_erase a c).1 hc).2, ?_⟩
    intro c hc
    rcases (Memory.mem_insertCell _ _ _ _).1 hc with rfl | hc
    · exact hv
    · exact he.2 c hc

/-! ## Tags -/

theorem TagMemory.read_eq (t : TagMemory) (g : Nat) : t.read g = decide (g ∈ t) := by
  simp [TagMemory.read]

theorem TagMemory.read_clear (t : TagMemory) (g k : Nat) :
    (t.clear g).read k = (t.read k && decide (k ≠ g)) := by
  simp only [TagMemory.read_eq, TagMemory.clear, List.mem_filter]
  by_cases h : k = g <;> simp [h]

theorem TagMemory.mem_insertTag (t : TagMemory) (g k : Nat) :
    k ∈ t.insertTag g ↔ k = g ∨ k ∈ t := by
  induction t with
  | nil => simp [TagMemory.insertTag]
  | cons d t ih =>
    simp only [TagMemory.insertTag]
    split
    · simp
    · simp only [List.mem_cons, ih]
      tauto

/-- A read after a tag write. -/
theorem TagMemory.read_write (t : TagMemory) (g k : Nat) (v : Bool) :
    (t.write g v).read k = if k = g then v else t.read k := by
  simp only [TagMemory.write]
  split
  · rename_i h
    simp only [TagMemory.read_eq, TagMemory.mem_insertTag, TagMemory.clear, List.mem_filter]
    by_cases hk : k = g <;> simp [hk, h]
  · rename_i h
    rw [TagMemory.read_clear]
    by_cases hk : k = g <;> simp [hk, h]

theorem TagMemory.clear_wf (t : TagMemory) (g : Nat) (h : t.wf) : (t.clear g).wf := h.filter _

theorem TagMemory.insertTag_wf (t : TagMemory) (g : Nat) (h : t.wf) (hg : g ∉ t) :
    (t.insertTag g).wf := by
  induction t with
  | nil => simp [TagMemory.insertTag, TagMemory.wf]
  | cons k t ih =>
    obtain ⟨h1, h2⟩ := List.pairwise_cons.1 h
    simp only [List.mem_cons, not_or] at hg
    simp only [TagMemory.insertTag]
    split
    · rename_i hlt
      refine List.pairwise_cons.2 ⟨fun c hc => ?_, h⟩
      rcases List.mem_cons.1 hc with rfl | hc
      · exact hlt
      · exact Nat.lt_trans hlt (h1 c hc)
    · refine List.pairwise_cons.2 ⟨fun c hc => ?_, ih h2 hg.2⟩
      rcases (TagMemory.mem_insertTag t g c).1 hc with rfl | hc
      · omega
      · exact h1 c hc

/-- A tag write keeps the canonical form. -/
theorem TagMemory.write_wf (t : TagMemory) (g : Nat) (v : Bool) (h : t.wf) : (t.write g v).wf := by
  simp only [TagMemory.write]
  split
  · exact TagMemory.insertTag_wf _ _ (t.clear_wf g h) (by simp [TagMemory.clear])
  · exact t.clear_wf g h

/-! ## Stores -/

/-- A byte after bytes are written from an address upward; bytes of a device stay (U24). -/
theorem writeBytes_read (p : Platform) (m : Memory) (a : Nat) (l : List Byte) (b : Nat) :
    (writeBytes p m a l).read b =
      if a ≤ b ∧ b < a + l.length ∧ isDevice p b = false then l.getD (b - a) 0 else m.read b := by
  induction l generalizing m a with
  | nil => simp [writeBytes]; intros; omega
  | cons v l ih =>
    simp only [writeBytes, ih, List.length_cons]
    by_cases hb : b = a
    · subst hb
      by_cases hd : isDevice p b = true <;> simp [hd, Memory.read_write]
    · have hm : (if isDevice p a = true then m else m.write a v).read b = m.read b := by
        split
        · rfl
        · rw [Memory.read_write, if_neg (Ne.symm hb)]
      rw [hm]
      by_cases hle : a ≤ b
      · obtain ⟨k, rfl⟩ : ∃ k, b = a + 1 + k := ⟨b - (a + 1), by omega⟩
        have h1 : a + 1 + k - (a + 1) = k := by omega
        have h2 : a + 1 + k - a = k + 1 := by omega
        rw [h1, h2, List.getD_cons_succ]
        by_cases hk : k < l.length
        · by_cases hd : isDevice p (a + 1 + k) = false
          · rw [if_pos ⟨by omega, by omega, hd⟩, if_pos ⟨by omega, by omega, hd⟩]
          · rw [if_neg fun h => hd h.2.2, if_neg fun h => hd h.2.2]
        · rw [if_neg fun h => hk (by omega), if_neg fun h => hk (by omega)]
      · rw [if_neg (by omega), if_neg (by omega)]

theorem writeBytes_wf (p : Platform) (m : Memory) (a : Nat) (l : List Byte) (h : m.wf) :
    (writeBytes p m a l).wf := by
  induction l generalizing m a with
  | nil => exact h
  | cons v l ih =>
    refine ih _ _ ?_
    split
    · exact h
    · exact m.write_wf a v h

theorem placeBytes_read (m : Memory) (a : Nat) (l : List Byte) (b : Nat) :
    (placeBytes m a l).read b =
      if a ≤ b ∧ b < a + l.length then l.getD (b - a) 0 else m.read b := by
  induction l generalizing m a with
  | nil => simp [placeBytes]
  | cons v l ih =>
    simp only [placeBytes, ih, List.length_cons, Memory.read_write]
    by_cases hb : b = a
    · subst hb
      simp
    · by_cases hle : a ≤ b
      · obtain ⟨k, rfl⟩ : ∃ k, b = a + 1 + k := ⟨b - (a + 1), by omega⟩
        have h1 : a + 1 + k - (a + 1) = k := by omega
        have h2 : a + 1 + k - a = k + 1 := by omega
        have h3 : a ≠ a + 1 + k := by omega
        rw [h1, h2, List.getD_cons_succ, if_neg h3]
        by_cases hk : k < l.length
        · rw [if_pos ⟨by omega, by omega⟩, if_pos ⟨by omega, by omega⟩]
        · rw [if_neg (by omega), if_neg (by omega)]
      · rw [if_neg (by omega), if_neg (by omega), if_neg (by omega)]

theorem placeBytes_wf (m : Memory) (a : Nat) (l : List Byte) (h : m.wf) : (placeBytes m a l).wf := by
  induction l generalizing m a with
  | nil => exact h
  | cons v l ih => exact ih _ _ (m.write_wf a v h)

/-- A tag after the tags of an access are cleared (R131): off in every granule touched that has one. -/
theorem clearTags_read (p : Platform) (t : TagMemory) (a n g : Nat) :
    (clearTags p t a n).read g =
      (t.read g && !(tagged p g && decide (∃ k, k < n ∧ g = granule (a + k)))) := by
  induction n generalizing t a with
  | zero => simp [clearTags]
  | succ n ih =>
    simp only [clearTags, ih]
    have hsplit : (∃ k, k < n + 1 ∧ g = granule (a + k)) ↔
        g = granule a ∨ ∃ k, k < n ∧ g = granule (a + 1 + k) := by
      constructor
      · rintro ⟨k, hk, rfl⟩
        rcases k with _ | k
        · exact .inl rfl
        · exact .inr ⟨k, by omega, by rw [show a + (k + 1) = a + 1 + k by omega]⟩
      · rintro (rfl | ⟨k, hk, rfl⟩)
        · exact ⟨0, by omega, rfl⟩
        · exact ⟨k + 1, by omega, by rw [show a + (k + 1) = a + 1 + k by omega]⟩
    simp only [hsplit, Bool.decide_or]
    by_cases hg : g = granule a
    · subst hg
      by_cases ht : tagged p (granule a) = true <;>
        simp [clearTagAt, ht, TagMemory.read_clear]
    · by_cases ht : tagged p (granule a) = true <;>
        simp [clearTagAt, ht, TagMemory.read_clear, hg]

theorem clearTags_wf (p : Platform) (t : TagMemory) (a n : Nat) (h : t.wf) :
    (clearTags p t a n).wf := by
  induction n generalizing t a with
  | zero => exact h
  | succ n ih =>
    refine ih _ _ ?_
    unfold clearTagAt
    split
    · exact t.clear_wf _ h
    · exact h

/-- A tag after a capability store (R134). -/
theorem storeTag_read (p : Platform) (t : TagMemory) (g : Nat) (v : Bool) (k : Nat) :
    (storeTag p t g v).read k =
      if k = g ∧ tagged p g = true then v && !deviceGranule p g else t.read k := by
  unfold storeTag
  split
  · rename_i h
    rw [TagMemory.read_write]
    simp [h]
  · rename_i h
    simp [h]

theorem storeTag_wf (p : Platform) (t : TagMemory) (g : Nat) (v : Bool) (h : t.wf) :
    (storeTag p t g v).wf := by
  unfold storeTag
  split
  · exact t.write_wf _ _ h
  · exact h

/-! ## What a fetch sees of stores (R152) -/

section Replay
variable (p : Platform) (seen : Nat → UnfencedStore → Bool) (m : Memory)

@[simp] theorem replay_nil : replay p seen m [] = m := rfl

theorem replay_cons (st : UnfencedStore) (older : List UnfencedStore) :
    replay p seen m (st :: older) =
      if seen older.length st then writeBytes p (replay p seen m older) st.addr st.bytes
      else replay p seen m older := rfl

theorem replay_wf (l : List UnfencedStore) (h : m.wf) : (replay p seen m l).wf := by
  induction l with
  | nil => exact h
  | cons st older ih =>
    rw [replay_cons]
    split
    · exact writeBytes_wf _ _ _ _ ih
    · exact ih

/-- A byte that no store made writes is that of the memory the stores were made to. -/
theorem replay_read (l : List UnfencedStore) (b : Nat)
    (h : ∀ st ∈ l, st.addr ≤ b → b < st.addr + st.bytes.length → ∀ n, seen n st = false) :
    (replay p seen m l).read b = m.read b := by
  induction l with
  | nil => rfl
  | cons st older ih =>
    have ih := ih fun o ho => h o (by simp [ho])
    rw [replay_cons]
    split
    · rename_i hs
      rw [writeBytes_read, if_neg, ih]
      rintro ⟨h1, h2, -⟩
      simp [h st (by simp) h1 h2] at hs
    · exact ih

end Replay

@[simp] theorem fetchMem_of_fenced {s : State} (h : s.unfenced = []) (a : Nat) :
    s.fetchMem a = s.codeMem := by simp [State.fetchMem, h]

/-! ## Reset -/

theorem ResetDraws.memory_wf (d : ResetDraws) : d.memory.wf := by
  suffices ∀ (l : List Host.Cell) (m : Memory), m.wf →
      (l.foldl (fun m c => Memory.write m c.1 c.2) m).wf from this d.mem [] (by simp [Memory.wf])
  intro l
  induction l with
  | nil => exact fun _ h => h
  | cons c l ih => exact fun m h => ih _ (m.write_wf c.1 c.2 h)

theorem ResetDraws.tagMemory_wf (d : ResetDraws) : d.tagMemory.wf := by
  suffices ∀ (l : List Nat) (t : TagMemory), t.wf →
      (l.foldl (fun t g => TagMemory.write t g true) t).wf from this d.tags [] (by simp [TagMemory.wf])
  intro l
  induction l with
  | nil => exact fun _ h => h
  | cons c l ih => exact fun t h => ih _ (t.write_wf c true h)

/-- Memory has its canonical form after every reset. -/
theorem State.resetOn_memory_wf (p : Platform) (d : ResetDraws) : (State.resetOn p d).mem.wf :=
  d.memory_wf

theorem State.reset_memory_wf : State.reset.mem.wf := ResetDraws.zero.memory_wf

end Sys2Proof.Machine
end

