-- ==== Sys2Proof/Laws/PerInstr.lean ====
section
/-! SUPPORT. A statement about every instruction as syntax, one lemma per constructor: the low bits of
its encoding give its length as R170 reads it, 2 bytes or 4 and never more. -/

namespace Sys2Proof.Laws

/-- R170 on the encoding of an instruction: a 16-bit one has `h[1:0] != 0b11`; a 32-bit one has
`h[1:0] = 0b11` and `h[4:2] != 0b111`. -/
def EncodedLength.Statement (i : Instr) : Prop :=
  match encode i with
  | .parcel h => hQuadrant h ≠ 3#2
  | .word w => w.extractLsb' 0 2 = 3#2 ∧ w.extractLsb' 2 3 ≠ 7#3

/-- A word's two length fields lie in its opcode. -/
theorem EncodedLength.of_opcode {w : Word} {op : BitVec 7} (h : fOpcode w = op)
    (h3 : op.extractLsb' 0 2 = 3#2) (h7 : op.extractLsb' 2 3 ≠ 7#3) :
    w.extractLsb' 0 2 = 3#2 ∧ w.extractLsb' 2 3 ≠ 7#3 := by
  subst h
  constructor
  · rw [← h3]
    ext k hk
    simp [fOpcode]
  · intro e
    apply h7
    rw [← e]
    ext k hk
    simp [fOpcode]

theorem EncodedLength.lui (rd : Reg) (imm : BitVec 20) :
    EncodedLength.Statement (.lui rd imm) :=
  EncodedLength.of_opcode (fOpcode_encU ..) (by decide) (by decide)

theorem EncodedLength.addi (rd rs1 : Reg) (imm : BitVec 12) :
    EncodedLength.Statement (.addi rd rs1 imm) :=
  EncodedLength.of_opcode (fOpcode_encI ..) (by decide) (by decide)

theorem EncodedLength.slti (rd rs1 : Reg) (imm : BitVec 12) :
    EncodedLength.Statement (.slti rd rs1 imm) :=
  EncodedLength.of_opcode (fOpcode_encI ..) (by decide) (by decide)

theorem EncodedLength.sltiu (rd rs1 : Reg) (imm : BitVec 12) :
    EncodedLength.Statement (.sltiu rd rs1 imm) :=
  EncodedLength.of_opcode (fOpcode_encI ..) (by decide) (by decide)

theorem EncodedLength.xori (rd rs1 : Reg) (imm : BitVec 12) :
    EncodedLength.Statement (.xori rd rs1 imm) :=
  EncodedLength.of_opcode (fOpcode_encI ..) (by decide) (by decide)

theorem EncodedLength.ori (rd rs1 : Reg) (imm : BitVec 12) :
    EncodedLength.Statement (.ori rd rs1 imm) :=
  EncodedLength.of_opcode (fOpcode_encI ..) (by decide) (by decide)

theorem EncodedLength.andi (rd rs1 : Reg) (imm : BitVec 12) :
    EncodedLength.Statement (.andi rd rs1 imm) :=
  EncodedLength.of_opcode (fOpcode_encI ..) (by decide) (by decide)

theorem EncodedLength.slli (rd rs1 : Reg) (shamt : BitVec 5) :
    EncodedLength.Statement (.slli rd rs1 shamt) :=
  EncodedLength.of_opcode (fOpcode_encR ..) (by decide) (by decide)

theorem EncodedLength.srli (rd rs1 : Reg) (shamt : BitVec 5) :
    EncodedLength.Statement (.srli rd rs1 shamt) :=
  EncodedLength.of_opcode (fOpcode_encR ..) (by decide) (by decide)

theorem EncodedLength.srai (rd rs1 : Reg) (shamt : BitVec 5) :
    EncodedLength.Statement (.srai rd rs1 shamt) :=
  EncodedLength.of_opcode (fOpcode_encR ..) (by decide) (by decide)

theorem EncodedLength.add (rd rs1 rs2 : Reg) :
    EncodedLength.Statement (.add rd rs1 rs2) :=
  EncodedLength.of_opcode (fOpcode_encR ..) (by decide) (by decide)

theorem EncodedLength.sub (rd rs1 rs2 : Reg) :
    EncodedLength.Statement (.sub rd rs1 rs2) :=
  EncodedLength.of_opcode (fOpcode_encR ..) (by decide) (by decide)

theorem EncodedLength.sll (rd rs1 rs2 : Reg) :
    EncodedLength.Statement (.sll rd rs1 rs2) :=
  EncodedLength.of_opcode (fOpcode_encR ..) (by decide) (by decide)

theorem EncodedLength.slt (rd rs1 rs2 : Reg) :
    EncodedLength.Statement (.slt rd rs1 rs2) :=
  EncodedLength.of_opcode (fOpcode_encR ..) (by decide) (by decide)

theorem EncodedLength.sltu (rd rs1 rs2 : Reg) :
    EncodedLength.Statement (.sltu rd rs1 rs2) :=
  EncodedLength.of_opcode (fOpcode_encR ..) (by decide) (by decide)

theorem EncodedLength.xor (rd rs1 rs2 : Reg) :
    EncodedLength.Statement (.xor rd rs1 rs2) :=
  EncodedLength.of_opcode (fOpcode_encR ..) (by decide) (by decide)

theorem EncodedLength.srl (rd rs1 rs2 : Reg) :
    EncodedLength.Statement (.srl rd rs1 rs2) :=
  EncodedLength.of_opcode (fOpcode_encR ..) (by decide) (by decide)

theorem EncodedLength.sra (rd rs1 rs2 : Reg) :
    EncodedLength.Statement (.sra rd rs1 rs2) :=
  EncodedLength.of_opcode (fOpcode_encR ..) (by decide) (by decide)

theorem EncodedLength.or (rd rs1 rs2 : Reg) :
    EncodedLength.Statement (.or rd rs1 rs2) :=
  EncodedLength.of_opcode (fOpcode_encR ..) (by decide) (by decide)

theorem EncodedLength.and (rd rs1 rs2 : Reg) :
    EncodedLength.Statement (.and rd rs1 rs2) :=
  EncodedLength.of_opcode (fOpcode_encR ..) (by decide) (by decide)

theorem EncodedLength.mul (rd rs1 rs2 : Reg) :
    EncodedLength.Statement (.mul rd rs1 rs2) :=
  EncodedLength.of_opcode (fOpcode_encR ..) (by decide) (by decide)

theorem EncodedLength.mulh (rd rs1 rs2 : Reg) :
    EncodedLength.Statement (.mulh rd rs1 rs2) :=
  EncodedLength.of_opcode (fOpcode_encR ..) (by decide) (by decide)

theorem EncodedLength.mulhsu (rd rs1 rs2 : Reg) :
    EncodedLength.Statement (.mulhsu rd rs1 rs2) :=
  EncodedLength.of_opcode (fOpcode_encR ..) (by decide) (by decide)

theorem EncodedLength.mulhu (rd rs1 rs2 : Reg) :
    EncodedLength.Statement (.mulhu rd rs1 rs2) :=
  EncodedLength.of_opcode (fOpcode_encR ..) (by decide) (by decide)

theorem EncodedLength.div (rd rs1 rs2 : Reg) :
    EncodedLength.Statement (.div rd rs1 rs2) :=
  EncodedLength.of_opcode (fOpcode_encR ..) (by decide) (by decide)

theorem EncodedLength.divu (rd rs1 rs2 : Reg) :
    EncodedLength.Statement (.divu rd rs1 rs2) :=
  EncodedLength.of_opcode (fOpcode_encR ..) (by decide) (by decide)

theorem EncodedLength.rem (rd rs1 rs2 : Reg) :
    EncodedLength.Statement (.rem rd rs1 rs2) :=
  EncodedLength.of_opcode (fOpcode_encR ..) (by decide) (by decide)

theorem EncodedLength.remu (rd rs1 rs2 : Reg) :
    EncodedLength.Statement (.remu rd rs1 rs2) :=
  EncodedLength.of_opcode (fOpcode_encR ..) (by decide) (by decide)

theorem EncodedLength.cjal (cd : Reg) (off : BitVec 20) :
    EncodedLength.Statement (.cjal cd off) :=
  EncodedLength.of_opcode (fOpcode_encJ ..) (by decide) (by decide)

theorem EncodedLength.cjalr (cd cs1 : Reg) (imm : BitVec 12) :
    EncodedLength.Statement (.cjalr cd cs1 imm) :=
  EncodedLength.of_opcode (fOpcode_encI ..) (by decide) (by decide)

theorem EncodedLength.beq (rs1 rs2 : Reg) (off : BitVec 12) :
    EncodedLength.Statement (.beq rs1 rs2 off) :=
  EncodedLength.of_opcode (fOpcode_encB ..) (by decide) (by decide)

theorem EncodedLength.bne (rs1 rs2 : Reg) (off : BitVec 12) :
    EncodedLength.Statement (.bne rs1 rs2 off) :=
  EncodedLength.of_opcode (fOpcode_encB ..) (by decide) (by decide)

theorem EncodedLength.blt (rs1 rs2 : Reg) (off : BitVec 12) :
    EncodedLength.Statement (.blt rs1 rs2 off) :=
  EncodedLength.of_opcode (fOpcode_encB ..) (by decide) (by decide)

theorem EncodedLength.bge (rs1 rs2 : Reg) (off : BitVec 12) :
    EncodedLength.Statement (.bge rs1 rs2 off) :=
  EncodedLength.of_opcode (fOpcode_encB ..) (by decide) (by decide)

theorem EncodedLength.bltu (rs1 rs2 : Reg) (off : BitVec 12) :
    EncodedLength.Statement (.bltu rs1 rs2 off) :=
  EncodedLength.of_opcode (fOpcode_encB ..) (by decide) (by decide)

theorem EncodedLength.bgeu (rs1 rs2 : Reg) (off : BitVec 12) :
    EncodedLength.Statement (.bgeu rs1 rs2 off) :=
  EncodedLength.of_opcode (fOpcode_encB ..) (by decide) (by decide)

theorem EncodedLength.clb (rd cs1 : Reg) (imm : BitVec 12) :
    EncodedLength.Statement (.clb rd cs1 imm) :=
  EncodedLength.of_opcode (fOpcode_encI ..) (by decide) (by decide)

theorem EncodedLength.clh (rd cs1 : Reg) (imm : BitVec 12) :
    EncodedLength.Statement (.clh rd cs1 imm) :=
  EncodedLength.of_opcode (fOpcode_encI ..) (by decide) (by decide)

theorem EncodedLength.clw (rd cs1 : Reg) (imm : BitVec 12) :
    EncodedLength.Statement (.clw rd cs1 imm) :=
  EncodedLength.of_opcode (fOpcode_encI ..) (by decide) (by decide)

theorem EncodedLength.clbu (rd cs1 : Reg) (imm : BitVec 12) :
    EncodedLength.Statement (.clbu rd cs1 imm) :=
  EncodedLength.of_opcode (fOpcode_encI ..) (by decide) (by decide)

theorem EncodedLength.clhu (rd cs1 : Reg) (imm : BitVec 12) :
    EncodedLength.Statement (.clhu rd cs1 imm) :=
  EncodedLength.of_opcode (fOpcode_encI ..) (by decide) (by decide)

theorem EncodedLength.clc (cd cs1 : Reg) (imm : BitVec 12) :
    EncodedLength.Statement (.clc cd cs1 imm) :=
  EncodedLength.of_opcode (fOpcode_encI ..) (by decide) (by decide)

theorem EncodedLength.csb (rs2 cs1 : Reg) (imm : BitVec 12) :
    EncodedLength.Statement (.csb rs2 cs1 imm) :=
  EncodedLength.of_opcode (fOpcode_encS ..) (by decide) (by decide)

theorem EncodedLength.csh (rs2 cs1 : Reg) (imm : BitVec 12) :
    EncodedLength.Statement (.csh rs2 cs1 imm) :=
  EncodedLength.of_opcode (fOpcode_encS ..) (by decide) (by decide)

theorem EncodedLength.csw (rs2 cs1 : Reg) (imm : BitVec 12) :
    EncodedLength.Statement (.csw rs2 cs1 imm) :=
  EncodedLength.of_opcode (fOpcode_encS ..) (by decide) (by decide)

theorem EncodedLength.csc (cs2 cs1 : Reg) (imm : BitVec 12) :
    EncodedLength.Statement (.csc cs2 cs1 imm) :=
  EncodedLength.of_opcode (fOpcode_encS ..) (by decide) (by decide)

theorem EncodedLength.fence (fm pred succ : BitVec 4) (rs1 rd : BitVec 5) :
    EncodedLength.Statement (.fence fm pred succ rs1 rd) :=
  EncodedLength.of_opcode (fOpcode_encI ..) (by decide) (by decide)

theorem EncodedLength.fencei (imm : BitVec 12) (rs1 rd : BitVec 5) :
    EncodedLength.Statement (.fencei imm rs1 rd) :=
  EncodedLength.of_opcode (fOpcode_encI ..) (by decide) (by decide)

theorem EncodedLength.ecall :
    EncodedLength.Statement (.ecall) :=
  ⟨by decide, by decide⟩

theorem EncodedLength.ebreak :
    EncodedLength.Statement (.ebreak) :=
  ⟨by decide, by decide⟩

theorem EncodedLength.wfi :
    EncodedLength.Statement (.wfi) :=
  ⟨by decide, by decide⟩

theorem EncodedLength.mret :
    EncodedLength.Statement (.mret) :=
  ⟨by decide, by decide⟩

theorem EncodedLength.csrrw (rd : Reg) (csr : BitVec 12) (rs1 : Reg) :
    EncodedLength.Statement (.csrrw rd csr rs1) :=
  EncodedLength.of_opcode (fOpcode_encI ..) (by decide) (by decide)

theorem EncodedLength.csrrs (rd : Reg) (csr : BitVec 12) (rs1 : Reg) :
    EncodedLength.Statement (.csrrs rd csr rs1) :=
  EncodedLength.of_opcode (fOpcode_encI ..) (by decide) (by decide)

theorem EncodedLength.csrrc (rd : Reg) (csr : BitVec 12) (rs1 : Reg) :
    EncodedLength.Statement (.csrrc rd csr rs1) :=
  EncodedLength.of_opcode (fOpcode_encI ..) (by decide) (by decide)

theorem EncodedLength.csrrwi (rd : Reg) (csr : BitVec 12) (uimm : BitVec 5) :
    EncodedLength.Statement (.csrrwi rd csr uimm) :=
  EncodedLength.of_opcode (fOpcode_encI ..) (by decide) (by decide)

theorem EncodedLength.csrrsi (rd : Reg) (csr : BitVec 12) (uimm : BitVec 5) :
    EncodedLength.Statement (.csrrsi rd csr uimm) :=
  EncodedLength.of_opcode (fOpcode_encI ..) (by decide) (by decide)

theorem EncodedLength.csrrci (rd : Reg) (csr : BitVec 12) (uimm : BitVec 5) :
    EncodedLength.Statement (.csrrci rd csr uimm) :=
  EncodedLength.of_opcode (fOpcode_encI ..) (by decide) (by decide)

theorem EncodedLength.cspecialrw (cd : Reg) (scr : Scr) (cs1 : Reg) :
    EncodedLength.Statement (.cspecialrw cd scr cs1) :=
  EncodedLength.of_opcode (fOpcode_encR ..) (by decide) (by decide)

theorem EncodedLength.auipcc (cd : Reg) (imm : BitVec 20) :
    EncodedLength.Statement (.auipcc cd imm) :=
  EncodedLength.of_opcode (fOpcode_encU ..) (by decide) (by decide)

theorem EncodedLength.auicgp (cd : Reg) (imm : BitVec 20) :
    EncodedLength.Statement (.auicgp cd imm) :=
  EncodedLength.of_opcode (fOpcode_encU ..) (by decide) (by decide)

theorem EncodedLength.cincaddr (cd cs1 rs2 : Reg) :
    EncodedLength.Statement (.cincaddr cd cs1 rs2) :=
  EncodedLength.of_opcode (fOpcode_encR ..) (by decide) (by decide)

theorem EncodedLength.cincaddrimm (cd cs1 : Reg) (imm : BitVec 12) :
    EncodedLength.Statement (.cincaddrimm cd cs1 imm) :=
  EncodedLength.of_opcode (fOpcode_encI ..) (by decide) (by decide)

theorem EncodedLength.csetaddr (cd cs1 rs2 : Reg) :
    EncodedLength.Statement (.csetaddr cd cs1 rs2) :=
  EncodedLength.of_opcode (fOpcode_encR ..) (by decide) (by decide)

theorem EncodedLength.csetbounds (cd cs1 rs2 : Reg) :
    EncodedLength.Statement (.csetbounds cd cs1 rs2) :=
  EncodedLength.of_opcode (fOpcode_encR ..) (by decide) (by decide)

theorem EncodedLength.csetboundsexact (cd cs1 rs2 : Reg) :
    EncodedLength.Statement (.csetboundsexact cd cs1 rs2) :=
  EncodedLength.of_opcode (fOpcode_encR ..) (by decide) (by decide)

theorem EncodedLength.csetboundsimm (cd cs1 : Reg) (uimm : BitVec 12) :
    EncodedLength.Statement (.csetboundsimm cd cs1 uimm) :=
  EncodedLength.of_opcode (fOpcode_encI ..) (by decide) (by decide)

theorem EncodedLength.candperm (cd cs1 rs2 : Reg) :
    EncodedLength.Statement (.candperm cd cs1 rs2) :=
  EncodedLength.of_opcode (fOpcode_encR ..) (by decide) (by decide)

theorem EncodedLength.cseal (cd cs1 cs2 : Reg) :
    EncodedLength.Statement (.cseal cd cs1 cs2) :=
  EncodedLength.of_opcode (fOpcode_encR ..) (by decide) (by decide)

theorem EncodedLength.cunseal (cd cs1 cs2 : Reg) :
    EncodedLength.Statement (.cunseal cd cs1 cs2) :=
  EncodedLength.of_opcode (fOpcode_encR ..) (by decide) (by decide)

theorem EncodedLength.cmove (cd cs1 : Reg) :
    EncodedLength.Statement (.cmove cd cs1) :=
  EncodedLength.of_opcode (fOpcode_encR ..) (by decide) (by decide)

theorem EncodedLength.ccleartag (cd cs1 : Reg) :
    EncodedLength.Statement (.ccleartag cd cs1) :=
  EncodedLength.of_opcode (fOpcode_encR ..) (by decide) (by decide)

theorem EncodedLength.csethigh (cd cs1 rs2 : Reg) :
    EncodedLength.Statement (.csethigh cd cs1 rs2) :=
  EncodedLength.of_opcode (fOpcode_encR ..) (by decide) (by decide)

theorem EncodedLength.cgetperm (rd cs1 : Reg) :
    EncodedLength.Statement (.cgetperm rd cs1) :=
  EncodedLength.of_opcode (fOpcode_encR ..) (by decide) (by decide)

theorem EncodedLength.cgettype (rd cs1 : Reg) :
    EncodedLength.Statement (.cgettype rd cs1) :=
  EncodedLength.of_opcode (fOpcode_encR ..) (by decide) (by decide)

theorem EncodedLength.cgetbase (rd cs1 : Reg) :
    EncodedLength.Statement (.cgetbase rd cs1) :=
  EncodedLength.of_opcode (fOpcode_encR ..) (by decide) (by decide)

theorem EncodedLength.cgetlen (rd cs1 : Reg) :
    EncodedLength.Statement (.cgetlen rd cs1) :=
  EncodedLength.of_opcode (fOpcode_encR ..) (by decide) (by decide)

theorem EncodedLength.cgettop (rd cs1 : Reg) :
    EncodedLength.Statement (.cgettop rd cs1) :=
  EncodedLength.of_opcode (fOpcode_encR ..) (by decide) (by decide)

theorem EncodedLength.cgettag (rd cs1 : Reg) :
    EncodedLength.Statement (.cgettag rd cs1) :=
  EncodedLength.of_opcode (fOpcode_encR ..) (by decide) (by decide)

theorem EncodedLength.cgetaddr (rd cs1 : Reg) :
    EncodedLength.Statement (.cgetaddr rd cs1) :=
  EncodedLength.of_opcode (fOpcode_encR ..) (by decide) (by decide)

theorem EncodedLength.cgethigh (rd cs1 : Reg) :
    EncodedLength.Statement (.cgethigh rd cs1) :=
  EncodedLength.of_opcode (fOpcode_encR ..) (by decide) (by decide)

theorem EncodedLength.csub (rd cs1 cs2 : Reg) :
    EncodedLength.Statement (.csub rd cs1 cs2) :=
  EncodedLength.of_opcode (fOpcode_encR ..) (by decide) (by decide)

theorem EncodedLength.ctestsubset (rd cs1 cs2 : Reg) :
    EncodedLength.Statement (.ctestsubset rd cs1 cs2) :=
  EncodedLength.of_opcode (fOpcode_encR ..) (by decide) (by decide)

theorem EncodedLength.csetequalexact (rd cs1 cs2 : Reg) :
    EncodedLength.Statement (.csetequalexact rd cs1 cs2) :=
  EncodedLength.of_opcode (fOpcode_encR ..) (by decide) (by decide)

theorem EncodedLength.crrl (rd rs1 : Reg) :
    EncodedLength.Statement (.crrl rd rs1) :=
  EncodedLength.of_opcode (fOpcode_encR ..) (by decide) (by decide)

theorem EncodedLength.cram (rd rs1 : Reg) :
    EncodedLength.Statement (.cram rd rs1) :=
  EncodedLength.of_opcode (fOpcode_encR ..) (by decide) (by decide)

theorem EncodedLength.rvcAddi4spn (cd : CReg) (nzuimm : BitVec 8) :
    EncodedLength.Statement (.rvcAddi4spn cd nzuimm) :=
  by simp [EncodedLength.Statement, encode]

theorem EncodedLength.rvcLw (rd cs1 : CReg) (uimm : BitVec 5) :
    EncodedLength.Statement (.rvcLw rd cs1 uimm) :=
  by simp [EncodedLength.Statement, encode]

theorem EncodedLength.rvcLc (cd cs1 : CReg) (uimm : BitVec 5) :
    EncodedLength.Statement (.rvcLc cd cs1 uimm) :=
  by simp [EncodedLength.Statement, encode]

theorem EncodedLength.rvcSw (rs2 cs1 : CReg) (uimm : BitVec 5) :
    EncodedLength.Statement (.rvcSw rs2 cs1 uimm) :=
  by simp [EncodedLength.Statement, encode]

theorem EncodedLength.rvcSc (cs2 cs1 : CReg) (uimm : BitVec 5) :
    EncodedLength.Statement (.rvcSc cs2 cs1 uimm) :=
  by simp [EncodedLength.Statement, encode]

theorem EncodedLength.rvcNop (imm : BitVec 6) :
    EncodedLength.Statement (.rvcNop imm) :=
  by simp [EncodedLength.Statement, encode]

theorem EncodedLength.rvcAddi (rd : Reg) (imm : BitVec 6) :
    EncodedLength.Statement (.rvcAddi rd imm) :=
  by simp [EncodedLength.Statement, encode]

theorem EncodedLength.rvcJal (off : BitVec 11) :
    EncodedLength.Statement (.rvcJal off) :=
  by simp [EncodedLength.Statement, encode]

theorem EncodedLength.rvcLi (rd : Reg) (imm : BitVec 6) :
    EncodedLength.Statement (.rvcLi rd imm) :=
  by simp [EncodedLength.Statement, encode]

theorem EncodedLength.rvcAddi16sp (nzimm : BitVec 6) :
    EncodedLength.Statement (.rvcAddi16sp nzimm) :=
  by simp [EncodedLength.Statement, encode]

theorem EncodedLength.rvcLui (rd : Reg) (imm : BitVec 6) :
    EncodedLength.Statement (.rvcLui rd imm) :=
  by simp [EncodedLength.Statement, encode]

theorem EncodedLength.rvcSrli (rd : CReg) (shamt : BitVec 5) :
    EncodedLength.Statement (.rvcSrli rd shamt) :=
  by simp [EncodedLength.Statement, encode]

theorem EncodedLength.rvcSrai (rd : CReg) (shamt : BitVec 5) :
    EncodedLength.Statement (.rvcSrai rd shamt) :=
  by simp [EncodedLength.Statement, encode]

theorem EncodedLength.rvcAndi (rd : CReg) (imm : BitVec 6) :
    EncodedLength.Statement (.rvcAndi rd imm) :=
  by simp [EncodedLength.Statement, encode]

theorem EncodedLength.rvcSub (rd rs2 : CReg) :
    EncodedLength.Statement (.rvcSub rd rs2) :=
  by simp [EncodedLength.Statement, encode]

theorem EncodedLength.rvcXor (rd rs2 : CReg) :
    EncodedLength.Statement (.rvcXor rd rs2) :=
  by simp [EncodedLength.Statement, encode]

theorem EncodedLength.rvcOr (rd rs2 : CReg) :
    EncodedLength.Statement (.rvcOr rd rs2) :=
  by simp [EncodedLength.Statement, encode]

theorem EncodedLength.rvcAnd (rd rs2 : CReg) :
    EncodedLength.Statement (.rvcAnd rd rs2) :=
  by simp [EncodedLength.Statement, encode]

theorem EncodedLength.rvcJ (off : BitVec 11) :
    EncodedLength.Statement (.rvcJ off) :=
  by simp [EncodedLength.Statement, encode]

theorem EncodedLength.rvcBeqz (rs1 : CReg) (off : BitVec 8) :
    EncodedLength.Statement (.rvcBeqz rs1 off) :=
  by simp [EncodedLength.Statement, encode]

theorem EncodedLength.rvcBnez (rs1 : CReg) (off : BitVec 8) :
    EncodedLength.Statement (.rvcBnez rs1 off) :=
  by simp [EncodedLength.Statement, encode]

theorem EncodedLength.rvcSlli (rd : Reg) (shamt : BitVec 5) :
    EncodedLength.Statement (.rvcSlli rd shamt) :=
  by simp [EncodedLength.Statement, encode]

theorem EncodedLength.rvcLwsp (rd : Reg) (uimm : BitVec 6) :
    EncodedLength.Statement (.rvcLwsp rd uimm) :=
  by simp [EncodedLength.Statement, encode]

theorem EncodedLength.rvcLcsp (cd : Reg) (uimm : BitVec 6) :
    EncodedLength.Statement (.rvcLcsp cd uimm) :=
  by simp [EncodedLength.Statement, encode]

theorem EncodedLength.rvcJr (cs1 : Reg) :
    EncodedLength.Statement (.rvcJr cs1) :=
  by simp [EncodedLength.Statement, encode]

theorem EncodedLength.rvcMv (cd cs2 : Reg) :
    EncodedLength.Statement (.rvcMv cd cs2) :=
  by simp [EncodedLength.Statement, encode]

theorem EncodedLength.rvcEbreak :
    EncodedLength.Statement (.rvcEbreak) :=
  by
  simp [EncodedLength.Statement, encode, hQuadrant]

theorem EncodedLength.rvcJalr (cs1 : Reg) :
    EncodedLength.Statement (.rvcJalr cs1) :=
  by simp [EncodedLength.Statement, encode]

theorem EncodedLength.rvcAdd (rd rs2 : Reg) :
    EncodedLength.Statement (.rvcAdd rd rs2) :=
  by simp [EncodedLength.Statement, encode]

theorem EncodedLength.rvcSwsp (rs2 : Reg) (uimm : BitVec 6) :
    EncodedLength.Statement (.rvcSwsp rs2 uimm) :=
  by simp [EncodedLength.Statement, encode]

theorem EncodedLength.rvcScsp (cs2 : Reg) (uimm : BitVec 6) :
    EncodedLength.Statement (.rvcScsp cs2 uimm) :=
  by simp [EncodedLength.Statement, encode]

end Sys2Proof.Laws
end

