-- ==== Sys2Proof/Laws/Shapes.lean ====
section
/-! SUPPORT. The shared operations in the shapes of Safety.lean: which shape the result of each has. -/

namespace Sys2Proof.Machine

variable {s : State}

/-- The whole state after a capability write, as the shape says it. -/
theorem finishC_writesCap (len : Word) (d : Reg) (v : Cap) (s : State) :
    WritesCap (finishC len d v s) s d v len := by
  refine ⟨_, rfl, ?_, fun r hr => ?_, rfl, rfl, ⟨fun _ => rfl, fun _ => rfl⟩,
    ⟨rfl, rfl, rfl, rfl⟩, ⟨rfl, rfl⟩, ⟨rfl, rfl⟩, rfl, ⟨rfl, rfl, rfl, rfl, rfl, rfl, rfl, rfl⟩,
    rfl, rfl, rfl, rfl⟩
  · cases d <;> rfl
  · change (s.setReg d v).reg r = s.reg r
    simp [hr]

/-- NULL with an address is what an integer result writes (R33, R72). -/
theorem nullWith_eq_mkcap (v : Word) : nullWith v = mkcap false 0 v := by
  simp [nullWith, mkcap]

theorem finishX_writesInt (len : Word) (d : Reg) (v : Word) (s : State) :
    WritesInt (finishX len d v s) s d v len := by
  rw [WritesInt, ← nullWith_eq_mkcap]
  exact finishC_writesCap len d (nullWith v) s

theorem pc_movesOnly (s : State) (pc : Word) : MovesOnly (.next { s with pc := pc }) s pc :=
  ⟨_, rfl, rfl, rfl, fun _ => rfl, ⟨fun _ => rfl, fun _ => rfl⟩, ⟨rfl, rfl, rfl, rfl⟩, ⟨rfl, rfl⟩,
    ⟨rfl, rfl⟩, rfl, ⟨rfl, rfl, rfl, rfl, rfl, rfl, rfl, rfl⟩, rfl, rfl, rfl, rfl⟩

/-- An exception, in the shape of R480. -/
theorem raise_traps (e : Exc) (s : State) :
    Traps (raise e s) s (s.exceptionPcc e) e.code (e.value s.platform) :=
  ⟨_, rfl, rfl, rfl, rfl, rfl, rfl, rfl, rfl, fun _ => rfl, ⟨fun _ => rfl, fun _ => rfl⟩, rfl, rfl,
    rfl, rfl, ⟨rfl, rfl, rfl, rfl, rfl, rfl, rfl, rfl⟩, rfl, rfl, rfl, rfl⟩

/-- MEPCC keeps the tag of PCC on every exception but the fetch bounds violation (R480, R481). -/
theorem exceptionPcc_eq {e : Exc} (h : e ≠ .cheri .bounds .pcc) :
    s.exceptionPcc e = s.pccVal s.pc := by
  have he : (e == .cheri .bounds .pcc) = false := beq_false_of_ne h
  simp [State.exceptionPcc, Exc.isFetchBounds, he]

theorem raise_reg_trapsCheri {cause : CheriCause} {r : Reg} (s : State) :
    TrapsCheri (raise (.cheri cause (.reg r)) s) s false r.bits.toNat cause.code.toNat := by
  have h := raise_traps (.cheri cause (.reg r)) s
  rw [exceptionPcc_eq (by simp)] at h
  convert h using 1
  cases cause <;> cases r <;> rfl

theorem raise_scr_trapsCheri {cause : CheriCause} {n : Scr} (s : State) :
    TrapsCheri (raise (.cheri cause (.scr n)) s) s true n.bits.toNat cause.code.toNat := by
  have h := raise_traps (.cheri cause (.scr n)) s
  rw [exceptionPcc_eq (by simp)] at h
  convert h using 1
  cases cause <;> cases n <;> rfl

theorem raise_pcc_trapsCheri {cause : CheriCause} (hc : cause ≠ .bounds) (s : State) :
    TrapsCheri (raise (.cheri cause .pcc) s) s true 0 cause.code.toNat := by
  have h := raise_traps (.cheri cause .pcc) s
  rw [exceptionPcc_eq (by simpa using hc)] at h
  convert h using 1
  cases cause <;> rfl

theorem raise_illegal_traps (bits : Word) (s : State) :
    TrapsIllegal (raise (.illegal bits) s) s bits := by
  have h := raise_traps (.illegal bits) s
  rw [exceptionPcc_eq (by simp)] at h
  rw [TrapsIllegal]
  convert h using 1
  · rfl
  · cases hm : s.platform.mtvalIllegal <;> simp [Exc.value, hm]

/-- Bounds out of order take in no access (R66). -/
theorem Cap.void.inBounds {c : Cap} (h : c.void) (addr n : Nat) : c.inBounds addr n = false := by
  simp only [Cap.void] at h
  simp only [Cap.inBounds, decide_eq_false_iff_not]
  omega

/-- A jump that is taken, in the shape of R284 to R286. -/
theorem link_eq_linkCap (s : State) (len : Word) : s.link len = linkCap s len := rfl

theorem opCjal_jumps (len : Word) (cd : Reg) (off : Word) (s : State) :
    Jumps (opCjal len cd off s) s cd len s.pcc (s.pc + off) s.mstatusMie := by
  refine ⟨_, rfl, ?_, fun r hr => ?_, rfl, rfl, rfl, rfl, ⟨fun _ => rfl, fun _ => rfl⟩,
    ⟨rfl, rfl, rfl, rfl⟩, ⟨rfl, rfl⟩, rfl, ⟨rfl, rfl, rfl, rfl, rfl, rfl, rfl, rfl⟩, rfl, rfl, rfl, rfl⟩
  · cases cd <;> rfl
  · change (s.setReg cd (s.link len)).reg r = s.reg r
    simp [hr]

theorem jumpTo_jumps (len : Word) (cd cs1 : Reg) (imm : Word) (s : State) :
    Jumps (.next (s.jumpTo len cd cs1 imm)) s cd len { s.reg cs1 with otype := 0 }
      (((s.reg cs1).a + imm) &&& 0xFFFFFFFE) (sentryMie (s.reg cs1).archotype s.mstatusMie) := by
  refine ⟨_, rfl, ?_, fun r hr => ?_, rfl, rfl, rfl, rfl, ⟨fun _ => rfl, fun _ => rfl⟩,
    ⟨rfl, rfl, rfl, rfl⟩, ⟨rfl, rfl⟩, rfl, ⟨rfl, rfl, rfl, rfl, rfl, rfl, rfl, rfl⟩, rfl, rfl, rfl, rfl⟩
  · cases cd <;> rfl
  · simp [hr]

end Sys2Proof.Machine
end

