-- ==== Sys2Proof/Tests/Slice0.lean ====
section
/-! SUPPORT. The author's own tests: ill-formed terms, words written out from the spec's encodings, one
step of each instruction with the result of the spec's own example, and a witness for the hypotheses
of every statement that has some. -/

-- one theorem after another: side by side they take a thread each
set_option Elab.async false

namespace Sys2Proof.Tests
open Sys2Proof Sys2Proof.Machine

/-! ## Well-formedness: each check refuses its ill-formed term -/

theorem test_wf_addi4spn_zero : (Instr.rvcAddi4spn .c10 0).wellFormed = false := by decide
theorem test_wf_addi_c0 : (Instr.rvcAddi .c0 1).wellFormed = false := by decide
theorem test_wf_addi16sp_zero : (Instr.rvcAddi16sp 0).wellFormed = false := by decide
theorem test_wf_lui_c2 : (Instr.rvcLui .c2 1).wellFormed = false := by decide
theorem test_wf_lui_zero : (Instr.rvcLui .c10 0).wellFormed = false := by decide
theorem test_wf_lwsp_c0 : (Instr.rvcLwsp .c0 1).wellFormed = false := by decide
theorem test_wf_lcsp_c0 : (Instr.rvcLcsp .c0 1).wellFormed = false := by decide
theorem test_wf_jr_c0 : (Instr.rvcJr .c0).wellFormed = false := by decide
theorem test_wf_mv_c0 : (Instr.rvcMv .c10 .c0).wellFormed = false := by decide
theorem test_wf_jalr_c0 : (Instr.rvcJalr .c0).wellFormed = false := by decide
theorem test_wf_add_c0 : (Instr.rvcAdd .c10 .c0).wellFormed = false := by decide

/-! ## Decoding: the example words of the spec -/

/-- Each word, of the given number of bits, decodes to the instruction beside it. -/
def decodes (l : List (Nat × Nat × Instr)) : Bool :=
  l.all fun x => decodeTableWord x.1 x.2.1 == some x.2.2

/-- No word of the list is an instruction. -/
def refused (nbits : Nat) (l : List Nat) : Bool := l.all fun w => (decodeTableWord nbits w).isNone

-- 40_integer.md, the Example of each rule
theorem test_decode_integer_immediate : decodes [
    (32, 0x12345537, .lui .c10 0x12345), (32, 0xFFF58513, .addi .c10 .c11 0xFFF),
    (32, 0xFFB5A513, .slti .c10 .c11 0xFFB), (32, 0x0015B513, .sltiu .c10 .c11 1),
    (32, 0xFFF5C513, .xori .c10 .c11 0xFFF), (32, 0x0F05E513, .ori .c10 .c11 0x0F0),
    (32, 0x0FF5F513, .andi .c10 .c11 0xFF), (32, 0x00459513, .slli .c10 .c11 4),
    (32, 0x0045D513, .srli .c10 .c11 4), (32, 0x4045D513, .srai .c10 .c11 4)] = true := by
  decide +kernel

theorem test_decode_integer_register : decodes [
    (32, 0x00C58533, .add .c10 .c11 .c12), (32, 0x40C58533, .sub .c10 .c11 .c12),
    (32, 0x00C59533, .sll .c10 .c11 .c12), (32, 0x00C5A533, .slt .c10 .c11 .c12),
    (32, 0x00C5B533, .sltu .c10 .c11 .c12), (32, 0x00C5C533, .xor .c10 .c11 .c12),
    (32, 0x00C5D533, .srl .c10 .c11 .c12), (32, 0x40C5D533, .sra .c10 .c11 .c12),
    (32, 0x00C5E533, .or .c10 .c11 .c12), (32, 0x00C5F533, .and .c10 .c11 .c12)] = true := by
  decide +kernel

theorem test_decode_multiply_divide : decodes [
    (32, 0x02C58533, .mul .c10 .c11 .c12), (32, 0x02C59533, .mulh .c10 .c11 .c12),
    (32, 0x02C5A533, .mulhsu .c10 .c11 .c12), (32, 0x02C5B533, .mulhu .c10 .c11 .c12),
    (32, 0x02C5C533, .div .c10 .c11 .c12), (32, 0x02C5D533, .divu .c10 .c11 .c12),
    (32, 0x02C5E533, .rem .c10 .c11 .c12), (32, 0x02C5F533, .remu .c10 .c11 .c12)] = true := by
  decide +kernel

-- 41_control_transfer.md R285 to R296
theorem test_decode_control : decodes [
    (32, 0x100000EF, .cjal .c1 0x80), (32, 0x000500E7, .cjalr .c1 .c10 0),
    (32, 0x00B50863, .beq .c10 .c11 8), (32, 0xFEB51EE3, .bne .c10 .c11 0xFFE),
    (32, 0x00B54863, .blt .c10 .c11 8), (32, 0x00B55863, .bge .c10 .c11 8),
    (32, 0x00B56863, .bltu .c10 .c11 8), (32, 0x00B57863, .bgeu .c10 .c11 8)] = true := by
  decide +kernel

-- 42_loads_stores.md R301 to R311
theorem test_decode_loads_stores : decodes [
    (32, 0x00158503, .clb .c10 .c11 1), (32, 0x00259503, .clh .c10 .c11 2),
    (32, 0x0045A503, .clw .c10 .c11 4), (32, 0x0015C503, .clbu .c10 .c11 1),
    (32, 0x0025D503, .clhu .c10 .c11 2), (32, 0x0085B503, .clc .c10 .c11 8),
    (32, 0x00A580A3, .csb .c10 .c11 1), (32, 0x00A59123, .csh .c10 .c11 2),
    (32, 0x00A5A223, .csw .c10 .c11 4), (32, 0x00A5B423, .csc .c10 .c11 8)] = true := by
  decide +kernel

-- 43_system.md R330 to R348
theorem test_decode_system : decodes [
    (32, 0x0FF0000F, .fence 0 15 15 0 0), (32, 0x0000100F, .fencei 0 0 0),
    (32, 0x00000073, .ecall), (32, 0x00100073, .ebreak), (32, 0x10500073, .wfi),
    (32, 0x30200073, .mret), (32, 0xBC159573, .csrrw .c10 0xBC1 .c11),
    (32, 0x30002573, .csrrs .c10 0x300 .c0), (32, 0x3005B073, .csrrc .c0 0x300 .c11),
    (32, 0x3402D073, .csrrwi .c0 0x340 5), (32, 0x30046073, .csrrsi .c0 0x300 8),
    (32, 0x30047073, .csrrci .c0 0x300 8), (32, 0x03D0055B, .cspecialrw .c10 .mtdc .c0),
    (32, 0x03C5805B, .cspecialrw .c0 .mtcc .c11)] = true := by
  decide +kernel

-- 44_capability_modify.md R360 to R375
theorem test_decode_modify : decodes [
    (32, 0x00001517, .auipcc .c10 1), (32, 0x0000157B, .auicgp .c10 1),
    (32, 0x22C5855B, .cincaddr .c10 .c11 .c12), (32, 0x0105955B, .cincaddrimm .c10 .c11 16),
    (32, 0x20C5855B, .csetaddr .c10 .c11 .c12), (32, 0x10C5855B, .csetbounds .c10 .c11 .c12),
    (32, 0x12C5855B, .csetboundsexact .c10 .c11 .c12),
    (32, 0x0405A55B, .csetboundsimm .c10 .c11 0x40), (32, 0x1AC5855B, .candperm .c10 .c11 .c12),
    (32, 0x16C5855B, .cseal .c10 .c11 .c12), (32, 0x18C5855B, .cunseal .c10 .c11 .c12),
    (32, 0xFEA5855B, .cmove .c10 .c11), (32, 0xFEB5855B, .ccleartag .c10 .c11),
    (32, 0x2CC5855B, .csethigh .c10 .c11 .c12)] = true := by
  decide +kernel

-- 45_capability_inspect.md R391 to R403
theorem test_decode_inspect : decodes [
    (32, 0xFE05855B, .cgetperm .c10 .c11), (32, 0xFE15855B, .cgettype .c10 .c11),
    (32, 0xFE25855B, .cgetbase .c10 .c11), (32, 0xFE35855B, .cgetlen .c10 .c11),
    (32, 0xFF85855B, .cgettop .c10 .c11), (32, 0xFE45855B, .cgettag .c10 .c11),
    (32, 0xFEF5855B, .cgetaddr .c10 .c11), (32, 0xFF75855B, .cgethigh .c10 .c11),
    (32, 0x28C5855B, .csub .c10 .c11 .c12), (32, 0x40C5855B, .ctestsubset .c10 .c11 .c12),
    (32, 0x42C5855B, .csetequalexact .c10 .c11 .c12), (32, 0xFE85855B, .crrl .c10 .c11),
    (32, 0xFE95855B, .cram .c10 .c11)] = true := by
  decide +kernel

-- 46_compressed.md R411 to R418
theorem test_decode_compressed_0 : decodes [
    (16, 0x0808, .rvcAddi4spn .c10 4), (16, 0x1FE0, .rvcAddi4spn .c8 255),
    (16, 0x41C8, .rvcLw .c10 .c11 1), (16, 0x6588, .rvcLc .c10 .c11 1),
    (16, 0x7FE0, .rvcLc .c8 .c15 31), (16, 0xC1C8, .rvcSw .c10 .c11 1),
    (16, 0xE588, .rvcSc .c10 .c11 1), (16, 0xFC64, .rvcSc .c9 .c8 31)] = true := by
  decide +kernel

-- 46_compressed.md R420 to R436
theorem test_decode_compressed_1 : decodes [
    (16, 0x0001, .rvcNop 0), (16, 0x157D, .rvcAddi .c10 0x3F), (16, 0x2021, .rvcJal 4),
    (16, 0x3001, .rvcJal 0x400), (16, 0x556D, .rvcLi .c10 0x3B), (16, 0x713D, .rvcAddi16sp 0x3E),
    (16, 0x617D, .rvcAddi16sp 0x1F), (16, 0x6505, .rvcLui .c10 1), (16, 0x757D, .rvcLui .c10 0x3F),
    (16, 0x810D, .rvcSrli .c10 3), (16, 0x857D, .rvcSrai .c10 31), (16, 0x9941, .rvcAndi .c10 0x30),
    (16, 0x8D0D, .rvcSub .c10 .c11), (16, 0x8D2D, .rvcXor .c10 .c11),
    (16, 0x8D4D, .rvcOr .c10 .c11), (16, 0x8D6D, .rvcAnd .c10 .c11), (16, 0xBFF5, .rvcJ 0x7FE),
    (16, 0xC119, .rvcBeqz .c10 3), (16, 0xD101, .rvcBeqz .c10 0x80), (16, 0xFD65, .rvcBnez .c10 0xFC),
    (16, 0xEFFD, .rvcBnez .c15 0x7F)] = true := by
  decide +kernel

-- 46_compressed.md R438 to R450
theorem test_decode_compressed_2 : decodes [
    (16, 0x0512, .rvcSlli .c10 4), (16, 0x4532, .rvcLwsp .c10 3), (16, 0x50FE, .rvcLwsp .c1 63),
    (16, 0x60A2, .rvcLcsp .c1 1), (16, 0x757E, .rvcLcsp .c10 63), (16, 0x8082, .rvcJr .c1),
    (16, 0x852E, .rvcMv .c10 .c11), (16, 0x9002, .rvcEbreak), (16, 0x9502, .rvcJalr .c10),
    (16, 0x952E, .rvcAdd .c10 .c11), (16, 0xC62A, .rvcSwsp .c10 3), (16, 0xE406, .rvcScsp .c1 1),
    (16, 0xFFAA, .rvcScsp .c10 63)] = true := by
  decide +kernel

-- R182, R348 (SCR 27), R234 with rd = c16, and the illegal parcels of 46_compressed.md
theorem test_decode_illegal_words :
    refused 32 [0xFFFFFFFF, 0x03B0055B, 0x00C59833, 0x0000200F, 0x00200073, 0x0000000B] = true := by
  decide +kernel
theorem test_decode_illegal_parcels :
    refused 16 [0x0000, 0x2000, 0x8000, 0xA000, 0x6101, 0x9101, 0x9D0D, 0x9D2D, 0x9D4D, 0x9D6D,
      0x1502, 0x2002, 0xA002] = true := by
  decide +kernel

/-! ## One step of each instruction

`run` places the word at `pc` and takes one step. Expected values are the Example of the rule named, or
hand arithmetic where it gives none. -/

/-- One step of the instruction with the given bits. -/
def run (nbits w : Nat) (s : State) : Result := step (s.withFetchWord nbits w)

/-- Reset with integers in c10, c11 and c12. -/
def ints (a b c : Word) : State := ((State.reset.setX .c10 a).setX .c11 b).setX .c12 c

/-- Reset with capabilities in c10, c11 and c12. -/
def caps (a b c : Cap) : State := ((State.reset.setReg .c10 a).setReg .c11 b).setReg .c12 c

/-- The memory capability `[0x20001000, 0x20001100)` with the given offset of its address. -/
def rw (off : Word) : Cap := mkcap true 0x7E020000 (0x20001000 + off)

/-- Reset with bytes at 0x20001000 and `rw 0` in c11. -/
def withBytes (bytes : List Byte) : State :=
  State.memWrite (caps .null (rw 0) .null) 0x20001000 bytes

/-- What a next state holds. -/
def holdsAfter {α : Type} (r : Result) (f : State → α) : Option α :=
  match r with
  | .next t => some (f t)
  | .fault _ => none
  | .refused _ => none

/-- The integer a register holds after a step. -/
def valOf (r : Result) (d : Reg) : Option Word := holdsAfter r fun t => t.x d

/-- Tag, metadata word and address a register holds after a step. -/
def capOf (r : Result) (d : Reg) : Option (Bool × Word × Word) :=
  holdsAfter r fun t => ((t.reg d).tag, (t.reg d).high, (t.reg d).a)

/-- `pc` after a step. -/
def pcOf (r : Result) : Option Word := holdsAfter r fun t => t.pc

/-- `mcause`, `mtval`, tag and address of MEPCC, and `pc`, after a step. -/
def trapOf (r : Result) : Option (Word × Word × Bool × Word × Word) :=
  holdsAfter r fun t => (t.mcause, t.mtval, t.mepcc.tag, t.mepcc.a, t.pc)

/-- The `n` bytes at an address and the tag of the granule there. -/
def memOf (r : Result) (a n : Nat) : Option (List Byte × Bool) :=
  holdsAfter r fun t => ((List.range n).map fun k => t.mem.read (a + k), t.tags.read a)

-- 40_integer.md
theorem test_lui : valOf (run 32 0x12345537 (ints 0 0 0)) .c10 = some 0x12345000 := by
  decide +kernel
theorem test_addi : valOf (run 32 0xFFF58513 (ints 0 0 0)) .c10 = some 0xFFFFFFFF := by
  decide +kernel
theorem test_addi_untags : capOf (run 32 0xFFF58513 (caps .null (rw 1) .null)) .c10 =
    some (false, 0, 0x20001000) := by decide +kernel
theorem test_slti : valOf (run 32 0xFFB5A513 (ints 0 0xFFFFFFF0 0)) .c10 = some 1 := by
  decide +kernel
theorem test_sltiu : valOf (run 32 0x0015B513 (ints 0 0 0)) .c10 = some 1 := by decide +kernel
theorem test_xori : valOf (run 32 0xFFF5C513 (ints 0 0x0000FFFF 0)) .c10 = some 0xFFFF0000 := by
  decide +kernel
theorem test_ori : valOf (run 32 0x0F05E513 (ints 0 0x00000F0F 0)) .c10 = some 0x00000FFF := by
  decide +kernel
theorem test_andi : valOf (run 32 0x0FF5F513 (ints 0 0x12345678 0)) .c10 = some 0x78 := by
  decide +kernel
theorem test_slli : valOf (run 32 0x00459513 (ints 0 0xF0000001 0)) .c10 = some 0x10 := by
  decide +kernel
theorem test_srli : valOf (run 32 0x0045D513 (ints 0 0x80000000 0)) .c10 = some 0x08000000 := by
  decide +kernel
theorem test_srai : valOf (run 32 0x4045D513 (ints 0 0x80000000 0)) .c10 = some 0xF8000000 := by
  decide +kernel
theorem test_add : valOf (run 32 0x00C58533 (ints 0 0xFFFFFFFF 1)) .c10 = some 0 := by
  decide +kernel
theorem test_sub : valOf (run 32 0x40C58533 (ints 0 0 1)) .c10 = some 0xFFFFFFFF := by
  decide +kernel
theorem test_sll : valOf (run 32 0x00C59533 (ints 0 1 33)) .c10 = some 2 := by decide +kernel
theorem test_slt : valOf (run 32 0x00C5A533 (ints 0 0x80000000 0)) .c10 = some 1 := by
  decide +kernel
theorem test_sltu : valOf (run 32 0x00C5B533 (ints 9 0x80000000 0)) .c10 = some 0 := by
  decide +kernel
theorem test_xor : valOf (run 32 0x00C5C533 (ints 0 0xF0F0 0xFF00)) .c10 = some 0x0FF0 := by
  decide +kernel
theorem test_srl : valOf (run 32 0x00C5D533 (ints 0 0x80000000 33)) .c10 = some 0x40000000 := by
  decide +kernel
theorem test_sra : valOf (run 32 0x40C5D533 (ints 0 0x80000000 31)) .c10 = some 0xFFFFFFFF := by
  decide +kernel
theorem test_or : valOf (run 32 0x00C5E533 (ints 0 0xF0F0 0xFF00)) .c10 = some 0xFFF0 := by
  decide +kernel
theorem test_and : valOf (run 32 0x00C5F533 (ints 0 0xF0F0 0xFF00)) .c10 = some 0xF000 := by
  decide +kernel
theorem test_mul : valOf (run 32 0x02C58533 (ints 9 0x10000 0x10000)) .c10 = some 0 := by
  decide +kernel
theorem test_mulh : valOf (run 32 0x02C59533 (ints 0 0xFFFFFFFF 1)) .c10 = some 0xFFFFFFFF := by
  decide +kernel
theorem test_mulhsu : valOf (run 32 0x02C5A533 (ints 0 0xFFFFFFFF 0xFFFFFFFF)) .c10 =
    some 0xFFFFFFFF := by decide +kernel
theorem test_mulhu : valOf (run 32 0x02C5B533 (ints 0 0xFFFFFFFF 0xFFFFFFFF)) .c10 =
    some 0xFFFFFFFE := by decide +kernel
theorem test_div : valOf (run 32 0x02C5C533 (ints 0 0xFFFFFFF9 2)) .c10 = some 0xFFFFFFFD := by
  decide +kernel
theorem test_div_overflow : valOf (run 32 0x02C5C533 (ints 0 0x80000000 0xFFFFFFFF)) .c10 =
    some 0x80000000 := by decide +kernel
theorem test_divu : valOf (run 32 0x02C5D533 (ints 0 7 2)) .c10 = some 3 := by decide +kernel
theorem test_divu_zero : valOf (run 32 0x02C5D533 (ints 0 7 0)) .c10 = some 0xFFFFFFFF := by
  decide +kernel
theorem test_rem : valOf (run 32 0x02C5E533 (ints 0 0xFFFFFFF9 2)) .c10 = some 0xFFFFFFFF := by
  decide +kernel
theorem test_rem_overflow : valOf (run 32 0x02C5E533 (ints 9 0x80000000 0xFFFFFFFF)) .c10 =
    some 0 := by decide +kernel
theorem test_remu : valOf (run 32 0x02C5F533 (ints 0 7 2)) .c10 = some 1 := by decide +kernel
theorem test_remu_zero : valOf (run 32 0x02C5F533 (ints 0 7 0)) .c10 = some 7 := by decide +kernel

-- 41_control_transfer.md: R285, R286, R291 to R296
theorem test_cjal : holdsAfter (run 32 0x100000EF State.reset) (fun t =>
    ((t.reg .c1).high, t.x .c1, t.pc)) = some (0x5F3E0000, 0x20000004, 0x20000100) := by
  decide +kernel
theorem test_cjalr : holdsAfter
    (run 32 0x000500E7 { caps (mkcap true 0x5EBE0000 0x20000400) .null .null with
      mstatusMie := true }) (fun t =>
    ((t.reg .c1).high, t.x .c1, t.mstatusMie, t.pcc.high, t.pc)) =
    some (0x5F7E0000, 0x20000004, false, 0x5E3E0000, 0x20000400) := by decide +kernel
theorem test_cjalr_untagged : trapOf
    (run 32 0x000500E7 (caps (mkcap false 0x5E3E0000 0x20000400) .null .null)) =
    some (0x1C, 0x142, true, 0x20000000, 0) := by decide +kernel
theorem test_beq : pcOf (run 32 0x00B50863 (caps (rw 0) (nullWith 0x20001000) .null)) =
    some 0x20000010 := by decide +kernel
theorem test_bne : pcOf (run 32 0xFEB51EE3 (ints 1 2 0)) = some 0x1FFFFFFC := by decide +kernel
theorem test_blt : pcOf (run 32 0x00B54863 (ints 0xFFFFFFFF 0 0)) = some 0x20000010 := by
  decide +kernel
theorem test_bge : pcOf (run 32 0x00B55863 (ints 0xFFFFFFFF 0 0)) = some 0x20000004 := by
  decide +kernel
theorem test_bltu : pcOf (run 32 0x00B56863 (ints 0xFFFFFFFF 0 0)) = some 0x20000004 := by
  decide +kernel
theorem test_bgeu : pcOf (run 32 0x00B57863 (ints 0xFFFFFFFF 0 0)) = some 0x20000010 := by
  decide +kernel

-- 42_loads_stores.md: R301 to R311
theorem test_clb : valOf (run 32 0x00158503 (withBytes [0, 0x80])) .c10 = some 0xFFFFFF80 := by
  decide +kernel
theorem test_clh : valOf (run 32 0x00259503 (withBytes [0, 0, 0xFF, 0x80])) .c10 =
    some 0xFFFF80FF := by decide +kernel
theorem test_clw : valOf (run 32 0x0045A503 (withBytes [0, 0, 0, 0, 0x44, 0x33, 0x22, 0x11])) .c10 =
    some 0x11223344 := by decide +kernel
theorem test_clw_bounds : trapOf (run 32 0x0045A503 (caps .null (rw 0xF9) .null)) =
    some (0x1C, 0x161, true, 0x20000000, 0) := by decide +kernel
theorem test_clbu : valOf (run 32 0x0015C503 (withBytes [0, 0x80])) .c10 = some 0x80 := by
  decide +kernel
theorem test_clhu : valOf (run 32 0x0025D503 (withBytes [0, 0, 0xFF, 0x80])) .c10 =
    some 0x80FF := by decide +kernel
theorem test_clc_strips : capOf (run 32 0x0085B503
    ((caps .null (mkcap true 0x78020000 0x20001000) .null).memWriteCap 0x20001008 true
      (mkcap true 0x7E002000 0x20001000))) .c10 = some (true, 0x28002000, 0x20001000) := by
  decide +kernel
theorem test_clc_sealed : capOf (run 32 0x0085B503
    ((caps .null (mkcap true 0x78020000 0x20001000) .null).memWriteCap 0x20001008 true
      (mkcap true 0x7EC02000 0x20001000))) .c10 = some (true, 0x3EC02000, 0x20001000) := by
  decide +kernel
theorem test_csb_clears_tag : memOf (run 32 0x00A580A3
    ((caps (rw 7) (rw 0) .null).memWriteCap 0x20001000 true (rw 0))) 0x20001000 2 =
    some ([0x00, 0x07], false) := by decide +kernel
theorem test_csh_clears_two_tags : holdsAfter (run 32 0x00A59123
    ({ caps .null (rw 5) .null with tags := [0x20001000, 0x20001008, 0x20001010] }))
    (fun t => t.tags) = some [0x20001010] := by decide +kernel
theorem test_csw : memOf (run 32 0x00A5A223 (caps (nullWith 0x11223344) (rw 0) .null))
    0x20001004 4 = some ([0x44, 0x33, 0x22, 0x11], false) := by decide +kernel
theorem test_csw_mark : holdsAfter (run 32 0x00A5A223
    { caps .null (rw 0x25) .null with mshwm := 0x2000110, mshwmb := 0x2000102 })
    (fun t => t.shwmWord) = some 0x20001020 := by decide +kernel
theorem test_csc : memOf (run 32 0x00A5B423 (caps (mkcap true 0x7E002000 0x20001000) (rw 0) .null))
    0x20001008 8 = some ([0x00, 0x10, 0x00, 0x20, 0x00, 0x20, 0x00, 0x7E], true) := by
  decide +kernel
theorem test_csc_local_without_sl : memOf (run 32 0x00A5B423
    (caps (mkcap true 0x3E002000 0x20001000) (mkcap true 0x76020000 0x20001000) .null))
    0x20001008 8 = some ([0x00, 0x10, 0x00, 0x20, 0x00, 0x20, 0x00, 0x3E], false) := by
  decide +kernel

-- 43_system.md: R330 to R348
/-- Reset with MTCC at 0x20000100. -/
def handler : State := { State.reset with mtcc := mkcap true 0x5E3E0000 0x20000100 }

/-- `handler` without SR in PCC. -/
def unprivileged : State := { handler with pcc := mkcap true 0x563E0000 0x20000000 }

theorem test_fence : pcOf (run 32 0x0FF0000F State.reset) = some 0x20000004 := by decide +kernel
theorem test_fencei : holdsAfter (run 32 0x0000100F { State.reset with mem := [(5, 1)] })
    (fun t => (t.codeMem == t.mem, t.unfenced, t.pc)) = some (true, [], 0x20000004) := by
  decide +kernel

/-- R152: bytes 1, then 2, then 1 again stored at one address: a fetch may get the old byte of the last
store; a store is recorded with its bytes. -/
theorem test_unfenced_stores :
    (replay Platform.reference (fun n _ => n == 0) [(0x100, 1)] [⟨0x100, [1]⟩, ⟨0x100, [2]⟩]).read
      0x100 = 2 ∧
    (replay Platform.reference (fun _ _ => true) [(0x100, 1)] [⟨0x100, [1]⟩, ⟨0x100, [2]⟩]).read
      0x100 = 1 ∧
    (State.reset.memWrite 0x100 [2]).unfenced = [⟨0x100, [2]⟩] := by decide +kernel
theorem test_ecall : trapOf (run 32 0x00000073 handler) =
    some (0xB, 0, true, 0x20000000, 0x20000100) := by decide +kernel
theorem test_ebreak : trapOf (run 32 0x00100073 handler) =
    some (3, 0x20000000, true, 0x20000000, 0x20000100) := by decide +kernel
theorem test_wfi : pcOf (run 32 0x10500073 unprivileged) = some 0x20000004 := by decide +kernel
theorem test_mret : holdsAfter (run 32 0x30200073
    { State.reset with mepcc := mkcap true 0x5E3E0000 0x20000800, mstatusMpie := true })
    (fun t => (t.pc, t.pcc.high, t.mstatusMie, t.mstatusMpie)) =
    some (0x20000800, 0x5E3E0000, true, true) := by decide +kernel
theorem test_mret_without_sr : trapOf (run 32 0x30200073 unprivileged) =
    some (0x1C, 0x418, true, 0x20000000, 0x20000100) := by decide +kernel
theorem test_csrrw : holdsAfter (run 32 0xBC159573
    { ints 0 0x2000FFFF 0 with mshwm := 0x2000110 }) (fun t => (t.shwmWord, t.x .c10)) =
    some (0x2000FFF0, 0x20001100) := by decide +kernel
theorem test_csrrs : valOf (run 32 0x30002573 { State.reset with mstatusMie := true }) .c10 =
    some 0x00001808 := by decide +kernel
theorem test_csrrs_mtvec : trapOf (run 32 0x30502573 handler) =
    some (2, 0, true, 0x20000000, 0x20000100) := by decide +kernel
theorem test_csrrc : holdsAfter (run 32 0x3005B073 { ints 0 8 0 with mstatusMie := true })
    (fun t => t.mstatusMie) = some false := by decide +kernel
theorem test_csrrwi : holdsAfter (run 32 0x3402D073 State.reset) (fun t => t.mscratch) =
    some 5 := by decide +kernel
theorem test_csrrsi : holdsAfter (run 32 0x30046073 State.reset) (fun t => t.mstatusMie) =
    some true := by decide +kernel
theorem test_csrrci : holdsAfter (run 32 0x30047073 { State.reset with mstatusMie := true })
    (fun t => t.mstatusMie) = some false := by decide +kernel
theorem test_cspecialrw_read : holdsAfter (run 32 0x03D0055B State.reset)
    (fun t => ((t.reg .c10).high, t.mtdc == rootM)) = some (0x7E3E0000, true) := by decide +kernel
theorem test_cspecialrw_write : holdsAfter
    (run 32 0x03C5805B (caps .null (mkcap true 0x5E3E0000 0x20000102) .null))
    (fun t => (t.mtcc.a, t.mtcc.tag)) = some (0x20000100, false) := by decide +kernel

-- 44_capability_modify.md: R360 to R375
theorem test_auipcc : capOf (run 32 0x00001517 State.reset) .c10 =
    some (true, 0x5E3E0000, 0x20000800) := by decide +kernel
theorem test_auipcc_unrepresentable : capOf
    (run 32 0x00001517 { State.reset with pcc := mkcap true 0x5E020000 0x20000000 }) .c10 =
    some (false, 0x5E020000, 0x20000800) := by decide +kernel
theorem test_auicgp : capOf
    (run 32 0x0000157B (State.reset.setReg .c3 (mkcap true 0x7E120000 0x20010000))) .c10 =
    some (true, 0x7E120000, 0x20010800) := by decide +kernel
theorem test_cincaddr : capOf (run 32 0x22C5855B (caps .null (rw 0) (nullWith 0x1FF))) .c10 =
    some (true, 0x7E020000, 0x200011FF) := by decide +kernel
theorem test_cincaddr_out : capOf (run 32 0x22C5855B (caps .null (rw 0) (nullWith 0x200))) .c10 =
    some (false, 0x7E020000, 0x20001200) := by decide +kernel
theorem test_cincaddrimm : capOf (run 32 0x0105955B (caps .null (rw 0) .null)) .c10 =
    some (true, 0x7E020000, 0x20001010) := by decide +kernel
theorem test_cincaddrimm_out : capOf (run 32 0xFF05955B (caps .null (rw 0) .null)) .c10 =
    some (false, 0x7E020000, 0x20000FF0) := by decide +kernel
theorem test_csetaddr : capOf
    (run 32 0x20C5855B (caps .null (rw 0) (nullWith 0x20001080))) .c10 =
    some (true, 0x7E020000, 0x20001080) := by decide +kernel
theorem test_csetaddr_sealed : capOf (run 32 0x20C5855B
    (caps .null (mkcap true 0x7E420000 0x20001000) (nullWith 0x20001080))) .c10 =
    some (false, 0x7E420000, 0x20001080) := by decide +kernel
theorem test_csetbounds : capOf
    (run 32 0x10C5855B (caps .null (rootM.moved 0x20001000) (nullWith 0x100))) .c10 =
    some (true, 0x7E020000, 0x20001000) := by decide +kernel
theorem test_csetbounds_wraps : holdsAfter
    (run 32 0x10C5855B (caps .null (rootM.moved 0x20001000) (nullWith 0xFFFFFFFF)))
    (fun t => (t.reg .c10).tag) = some false := by decide +kernel
theorem test_csetboundsexact : capOf
    (run 32 0x12C5855B (caps .null (rootM.moved 0x20001004) (nullWith 0x3FC))) .c10 =
    some (true, 0x7E040002, 0x20001004) := by decide +kernel
theorem test_csetboundsexact_inexact : holdsAfter
    (run 32 0x12C5855B (caps .null (rootM.moved 0x20001001) (nullWith 0x200)))
    (fun t => ((t.reg .c10).tag, (t.reg .c10).base, (t.reg .c10).top)) =
    some (false, 0x20001000, 0x20001202) := by decide +kernel
theorem test_csetboundsimm : capOf (run 32 0xFFF5A55B (caps .null (rootM.moved 0x20001000) .null))
    .c10 = some (true, 0x7E100100, 0x20001000) := by decide +kernel
theorem test_candperm : holdsAfter (run 32 0x1AC5855B (caps .null rootM (nullWith 0x02B)))
    (fun t => ((t.reg .c10).tag, (t.reg .c10).perms)) = some (true, 0x021) := by decide +kernel
theorem test_cseal : capOf (run 32 0x16C5855B (caps .null (rw 0) (rootS.moved 9))) .c10 =
    some (true, 0x7E420000, 0x20001000) := by decide +kernel
theorem test_cseal_reserved : holdsAfter
    (run 32 0x16C5855B (caps .null (rw 0) (rootS.moved 8))) (fun t => (t.reg .c10).tag) =
    some false := by decide +kernel
theorem test_cunseal : capOf (run 32 0x18C5855B
    (caps .null (mkcap true 0x7E420000 0x20001000) (rootS.moved 9))) .c10 =
    some (true, 0x7E020000, 0x20001000) := by decide +kernel
theorem test_cunseal_local_authority : holdsAfter (run 32 0x18C5855B
    (caps .null (mkcap true 0x7E420000 0x20001000) (mkcap true 0x0E3E0000 9)))
    (fun t => ((t.reg .c10).tag, (t.reg .c10).perms)) = some (true, 0x07E) := by decide +kernel
theorem test_cmove : capOf (run 32 0xFEA5855B (caps .null (mkcap true 0x7E420000 7) .null)) .c10 =
    some (true, 0x7E420000, 7) := by decide +kernel
theorem test_ccleartag : capOf (run 32 0xFEB5855B (caps .null (rw 0) .null)) .c10 =
    some (false, 0x7E020000, 0x20001000) := by decide +kernel
theorem test_csethigh : capOf
    (run 32 0x2CC5855B (caps .null (rw 0) (nullWith 0x5E3E0000))) .c10 =
    some (false, 0x5E3E0000, 0x20001000) := by decide +kernel

-- 45_capability_inspect.md: R391 to R403
theorem test_cgetperm : valOf (run 32 0xFE05855B (caps .null rootX .null)) .c10 = some 0x1EB := by
  decide +kernel
theorem test_cgettype : valOf (run 32 0xFE15855B
    (caps .null (mkcap true 0x7E420000 0x20001000) .null)) .c10 = some 9 := by decide +kernel
theorem test_cgetbase : valOf (run 32 0xFE25855B (caps .null (rw 3) .null)) .c10 =
    some 0x20001000 := by decide +kernel
theorem test_cgetlen : valOf (run 32 0xFE35855B (caps .null rootM .null)) .c10 =
    some 0xFFFFFFFF := by decide +kernel
theorem test_cgetlen_malformed : valOf
    (run 32 0xFE35855B (caps .null (mkcap false 0x00010100 0x10) .null)) .c10 = some 0 := by
  decide +kernel
theorem test_cgettop : valOf (run 32 0xFF85855B (caps .null (rw 0) .null)) .c10 =
    some 0x20001100 := by decide +kernel
theorem test_cgettag : valOf (run 32 0xFE45855B (caps .null (rw 0) .null)) .c10 = some 1 := by
  decide +kernel
theorem test_cgetaddr : valOf (run 32 0xFEF5855B (caps .null (rw 3) .null)) .c10 =
    some 0x20001003 := by decide +kernel
theorem test_cgethigh : valOf (run 32 0xFF75855B (caps .null rootS .null)) .c10 =
    some 0x4E3E0000 := by decide +kernel
theorem test_csub : valOf (run 32 0x28C5855B (caps .null (rw 0) (rw 0x10))) .c10 =
    some 0xFFFFFFF0 := by decide +kernel
theorem test_ctestsubset : valOf (run 32 0x40C5855B (caps .null rootM (rw 0))) .c10 = some 1 := by
  decide +kernel
theorem test_ctestsubset_perms : valOf (run 32 0x40C5855B (caps .null rootX (rw 0))) .c10 =
    some 0 := by decide +kernel
theorem test_csetequalexact : valOf (run 32 0x42C5855B (caps .null (rw 0) (rw 0))) .c10 =
    some 1 := by decide +kernel
theorem test_csetequalexact_tag : valOf (run 32 0x42C5855B
    (caps .null (rw 0) (mkcap false 0x7E020000 0x20001000))) .c10 = some 0 := by decide +kernel
theorem test_crrl : valOf (run 32 0xFE85855B (ints 0 0x7FC001 0)) .c10 = some 0x01000000 := by
  decide +kernel
theorem test_crrl_wraps : valOf (run 32 0xFE85855B (ints 9 0xFF000001 0)) .c10 = some 0 := by
  decide +kernel
theorem test_cram : valOf (run 32 0xFE95855B (ints 0 0x3FF 0)) .c10 = some 0xFFFFFFFC := by
  decide +kernel
theorem test_cram_large : valOf (run 32 0xFE95855B (ints 0 0x7FC001 0)) .c10 =
    some 0xFF000000 := by decide +kernel

-- 46_compressed.md
/-- Reset with `rw off` as the stack capability and an integer in c10. -/
def stack (off v : Word) : State := (State.reset.setReg .c2 (rw off)).setX .c10 v

theorem test_c_addi4spn : capOf (run 16 0x0808 (stack 0 0)) .c10 =
    some (true, 0x7E020000, 0x20001010) := by decide +kernel
theorem test_c_lw : valOf (run 16 0x41C8 (withBytes [0, 0, 0, 0, 0x44, 0x33, 0x22, 0x11])) .c10 =
    some 0x11223344 := by decide +kernel
theorem test_c_lc : capOf
    (run 16 0x6588 ((caps .null (rw 0) .null).memWriteCap 0x20001008 true (rw 4))) .c10 =
    some (true, 0x7E020000, 0x20001004) := by decide +kernel
theorem test_c_sw : memOf (run 16 0xC1C8 (caps (nullWith 0x11223344) (rw 0) .null))
    0x20001004 4 = some ([0x44, 0x33, 0x22, 0x11], false) := by decide +kernel
theorem test_c_sc : memOf (run 16 0xE588 (caps (rw 4) (rw 0) .null)) 0x20001008 8 =
    some ([0x04, 0x10, 0x00, 0x20, 0x00, 0x00, 0x02, 0x7E], true) := by decide +kernel
theorem test_c_nop : pcOf (run 16 0x0001 State.reset) = some 0x20000002 := by decide +kernel
theorem test_c_addi : valOf (run 16 0x157D (ints 0 0 0)) .c10 = some 0xFFFFFFFF := by
  decide +kernel
theorem test_c_jal : holdsAfter (run 16 0x2021 State.reset) (fun t =>
    ((t.reg .c1).high, t.x .c1, t.pc)) = some (0x5F3E0000, 0x20000002, 0x20000008) := by
  decide +kernel
theorem test_c_li : valOf (run 16 0x556D (ints 0 0 0)) .c10 = some 0xFFFFFFFB := by decide +kernel
theorem test_c_addi16sp : capOf (run 16 0x713D (stack 0x40 0)) .c2 =
    some (true, 0x7E020000, 0x20001020) := by decide +kernel
theorem test_c_lui : valOf (run 16 0x757D (ints 0 0 0)) .c10 = some 0xFFFFF000 := by decide +kernel
theorem test_c_srli : valOf (run 16 0x810D (ints 0x80000000 0 0)) .c10 = some 0x10000000 := by
  decide +kernel
theorem test_c_srai : valOf (run 16 0x857D (ints 0x80000000 0 0)) .c10 = some 0xFFFFFFFF := by
  decide +kernel
theorem test_c_andi : valOf (run 16 0x9941 (ints 0x12345678 0 0)) .c10 = some 0x12345670 := by
  decide +kernel
theorem test_c_sub : valOf (run 16 0x8D0D (ints 0 1 0)) .c10 = some 0xFFFFFFFF := by decide +kernel
theorem test_c_xor : valOf (run 16 0x8D2D (ints 0xF0F0 0xFF00 0)) .c10 = some 0x0FF0 := by
  decide +kernel
theorem test_c_or : valOf (run 16 0x8D4D (ints 0xF0F0 0xFF00 0)) .c10 = some 0xFFF0 := by
  decide +kernel
theorem test_c_and : valOf (run 16 0x8D6D (ints 0xF0F0 0xFF00 0)) .c10 = some 0xF000 := by
  decide +kernel
theorem test_c_j : holdsAfter (run 16 0xBFF5 State.reset) (fun t => (t.pc, t.x .c1)) =
    some (0x1FFFFFFC, 0) := by decide +kernel
theorem test_c_beqz : pcOf (run 16 0xC119 (ints 0 0 0)) = some 0x20000006 := by decide +kernel
theorem test_c_bnez : pcOf (run 16 0xFD65 (ints 0 0 0)) = some 0x20000002 := by decide +kernel
theorem test_c_slli : valOf (run 16 0x0512 (ints 0xF0000001 0 0)) .c10 = some 0x10 := by
  decide +kernel
theorem test_c_lwsp : valOf (run 16 0x4532 ((stack 0 0).memWrite 0x2000100C [0x78, 0x56])) .c10 =
    some 0x5678 := by decide +kernel
theorem test_c_lcsp : capOf (run 16 0x60A2 ((stack 0 0).memWriteCap 0x20001008 true (rw 4))) .c1 =
    some (true, 0x7E020000, 0x20001004) := by decide +kernel
theorem test_c_jr : holdsAfter
    (run 16 0x8082 (State.reset.setReg .c1 (mkcap true 0x5F7E0000 0x20000404)))
    (fun t => (t.pc, t.mstatusMie, t.pcc.high)) = some (0x20000404, true, 0x5E3E0000) := by
  decide +kernel
theorem test_c_jr_unsealed_return : trapOf
    (run 16 0x8082 (State.reset.setReg .c1 (mkcap true 0x5E3E0000 0x20000404))) =
    some (0x1C, 0x23, true, 0x20000000, 0) := by decide +kernel
theorem test_c_mv : capOf (run 16 0x852E (caps .null (rw 4) .null)) .c10 =
    some (true, 0x7E020000, 0x20001004) := by decide +kernel
theorem test_c_ebreak : trapOf (run 16 0x9002 handler) =
    some (3, 0x20000000, true, 0x20000000, 0x20000100) := by decide +kernel
theorem test_c_jalr : holdsAfter
    (run 16 0x9502 (caps (mkcap true 0x5E3E0000 0x20000400) .null .null))
    (fun t => ((t.reg .c1).high, t.x .c1, t.pc)) = some (0x5F3E0000, 0x20000002, 0x20000400) := by
  decide +kernel
theorem test_c_add : valOf (run 16 0x952E (ints 0xFFFFFFFF 1 0)) .c10 = some 0 := by decide +kernel
theorem test_c_swsp : memOf (run 16 0xC62A (stack 0 0x11223344)) 0x2000100C 4 =
    some ([0x44, 0x33, 0x22, 0x11], false) := by decide +kernel
theorem test_c_scsp : memOf (run 16 0xE406 ((stack 0 0).setReg .c1 (rw 4))) 0x20001008 8 =
    some ([0x04, 0x10, 0x00, 0x20, 0x00, 0x00, 0x02, 0x7E], true) := by decide +kernel

/-! ## Witnesses: concrete states and operands that meet the hypotheses of a statement

One theorem per statement of Obligations.lean that has hypotheses, with each clause, at a boundary of
its range where it has one. -/

/-- The answer is a next state. -/
def completes (r : Result) : Bool := (holdsAfter r fun _ => ()).isSome

theorem next_of_completes {r : Result} (h : completes r = true) : ∃ t, r = .next t := by
  cases r with
  | next t => exact ⟨t, rfl⟩
  | fault f => cases f
  | refused f => cases h

/-- PCC with the bounds `[0x20000000, 0x20000000 + n)`. -/
def pccOf (n : BitVec 9) : Cap := { mkcap true 0x5E000000 0x20000000 with t := n }

/-- `handler` with an instruction at `pc`. -/
def placed (nbits w : Nat) : State := handler.withFetchWord nbits w

theorem witness_DecodeOfEncode : (Instr.cjal .c1 0x80000).wellFormed = true ∧
    (Instr.rvcLui .c10 0x3F).wellFormed = true := by decide

theorem witness_EncodeOfDecode : decode [0xEF, 0x00, 0x00, 0x10] = .ok (.cjal .c1 0x80) ∧
    decode [0x82, 0x80, 0xAA] = .ok (.rvcJr .c1) := by decide +kernel

theorem witness_StepRunsTheDecodedInstruction :
    ((placed 32 0x100000EF).interrupt = none ∧
      (placed 32 0x100000EF).tick.fetch = .ok (.word 0x100000EF) ∧
      decode (Encoded.word 0x100000EF).bytes = .ok (.cjal .c1 0x80)) ∧
    (placed 32 0xFFFFFFFF).tick.fetch = .ok (.word 0xFFFFFFFF) ∧
      decodeTableWord 32 0xFFFFFFFF = none := by decide +kernel

theorem witness_PlacedInstructionRuns :
    let s := { placed 32 0x100000EF with
      pcc := pccOf 4
      unfenced := [⟨0x20000003, [0x10, 0x55]⟩, ⟨0x1FFFFFFF, [0x77, 0xEF]⟩] }
    let i := Instr.cjal .c1 0x80
    i.wellFormed = true ∧ s.interrupt = none ∧ s.pcc.tag = true ∧ s.pcc.isSealed = false ∧
      s.pcc.isExec = true ∧ s.pcc.base ≤ s.pc.toNat ∧ s.pc.toNat + (encode i).length = s.pcc.top ∧
      ∀ k, k < (encode i).length → mapped s.platform (s.pc.toNat + k) = some .ram ∧
        s.codeMem.read (s.pc.toNat + k) = (encode i).bytes.getD k 0 ∧
        ∀ st, st ∈ s.unfenced → ∀ j, j < st.bytes.length → st.addr + j = s.pc.toNat + k →
          st.bytes.getD j 0 = (encode i).bytes.getD k 0 := by decide +kernel

/-- A platform with two local interrupts, all interrupts enabled, and the given lines pending. -/
def pending (lines : Word) : State :=
  { handler with
    platform := { Platform.reference with localIrqs := [4, 15] }
    mstatusMie := true
    mie := 0xFFFFFFFF
    mip := lines }

theorem witness_InterruptsByPriority :
    (irqOrder (pending 0).platform = [20, 31, 11, 3, 7]) ∧
    ((pending 0x80100888).mstatusMie = true ∧
      ((pending 0x80100888).mip &&& (pending 0x80100888).mie).getLsbD 20 = true) ∧
    ((∀ j, j ∈ [20, 31, 11, 3] → ((pending 0x80).mip &&& (pending 0x80).mie).getLsbD j = false) ∧
      ((pending 0x80).mip &&& (pending 0x80).mie).getLsbD 7 = true) ∧
    (pending 0).interrupt = none := by decide +kernel

/-- The reference platform with nothing mapped from an address on. -/
def mappedBelow (n : Nat) : Platform :=
  { Platform.reference with regions := [{ base := 0, size := n, kind := .ram }] }

theorem witness_FetchChecksInOrder :
    (placed 32 0x100000EF).interrupt = none ∧
    { placed 32 0x100000EF with pcc := Cap.null }.pcc.tag = false ∧
    ({ pccOf 8 with otype := 1 }.tag = true ∧ { pccOf 8 with otype := 1 }.isSealed = true) ∧
    ((rw 0).tag = true ∧ (rw 0).isSealed = false ∧ (rw 0).isExec = false) ∧
    ((pccOf 8).top < 0x20000008 + 2 ∧ (pccOf 8).base ≤ 0x20000008) ∧
    mapped (mappedBelow 0x20000000) 0x20000000 = none ∧
    ((pccOf 2).top < 0x20000000 + 4 ∧ 0x20000000 + 2 = (pccOf 2).top ∧
      (placed 32 0x100000EF).tick.fetchParcel 0x20000000 = 0x00EF) ∧
    (mapped (mappedBelow 0x20000002) 0x20000000 = some .ram ∧
      mapped (mappedBelow 0x20000002) 0x20000002 = none) ∧
    ({ placed 32 0x100000EF with pcc := pccOf 4 }.tick.fetch = .ok (.word 0x100000EF)) ∧
    { placed 16 0x8082 with pcc := pccOf 2 }.tick.fetch = .ok (.parcel 0x8082) := by
  decide +kernel

/-- A machine that has entered a trap through an untagged MTCC. -/
def looping : State :=
  { State.reset with
    mtcc := mkcap false 0x5E3E0000 0x100
    pcc := mkcap false 0x5E3E0000 0x100
    pc := 0x100 }

/-- `handler` with an untagged MEPCC. -/
def untaggedReturn : State := { handler with mepcc := mkcap false 0x5E3E0000 0x800 }

theorem witness_UntaggedTrapVectorLoops :
    (looping.mtcc.tag = false ∧ looping.pcc = looping.mtcc ∧ looping.pc = looping.mtcc.a ∧
      looping.mstatusMie = false) ∧
    untaggedReturn.hasSr = true ∧ untaggedReturn.mepcc.tag = false ∧
    holdsAfter (exec .mret untaggedReturn) (fun t => t.interrupt) = some none := by decide +kernel

theorem witness_RegisterZero : Reg.c15 ≠ .c0 := by decide

theorem witness_MultiplyDivideResults : State.reset.platform.hasM = true ∧
    (State.resetOn { Platform.reference with hasM := false } ResetDraws.zero).platform.hasM = false :=
  by decide

theorem witness_CompressedRunsItsExpansion :
    ((Instr.rvcJ 0x7FE).expansion = some (.cjal .c0 0xFFFFE) ∧
      completes (exec (.cjal .c0 0xFFFFE) handler) = true) ∧
    ((Instr.rvcBnez .c10 0x80).expansion = some (.bne .c10 .c0 0xF80) ∧
      (ints 1 0 0).x (CReg.c10).reg ≠ 0 ∧
      completes (exec (.bne .c10 .c0 0xF80) (ints 1 0 0)) = true) ∧
    ((Instr.rvcLw .c10 .c11 31).expansion = some (.clw .c10 .c11 124) ∧
      holdsAfter (exec (.clw .c10 .c11 124) (caps .null (rw 0x80) .null)) (fun t => t.pc) =
        some 0x20000004) ∧
    ((Instr.rvcLw .c10 .c11 31).access ≠ none ∧
      exec (.clw .c10 .c11 124) (caps .null (rw 0x81) .null) = .next
        ((caps .null (rw 0x81) .null).trap (.cheri .bounds (.reg .c11)))) :=
  ⟨by decide +kernel, by decide +kernel, by decide +kernel, by decide +kernel, by rfl⟩

/-- `handler` with the executable root at 0x20000400, of a stored otype, in a register. -/
def target (r : Reg) (otype : BitVec 3) : State :=
  handler.setReg r { rootX with a := 0x20000400, otype := otype }

theorem witness_JumpRegisterResults :
    (∀ ot : BitVec 3, ((target .c10 ot).reg .c10).tag = true ∧
      ((target .c10 ot).reg .c10).isExec = true) ∧
    ((target .c10 3).reg .c10).archotype ∈ validOtypes .c10 .c1 ∧
    ((target .c10 1).reg .c10).archotype ∈ validOtypes .c10 .c0 ∧
    ((target .c10 0).reg .c10).archotype = 0 := by decide +kernel

theorem witness_SentryTable :
    (∀ ot : BitVec 3, ((target .c10 ot).reg .c10).tag = true ∧
      ((target .c10 ot).reg .c10).isExec = true ∧
      ((target .c10 ot).reg .c10).archotype.toNat = ot.toNat) ∧
    ((target .c1 5).reg .c1).archotype.toNat = 5 ∧ ((target .c1 6).reg .c1).archotype.toNat = 6 := by
  decide +kernel

theorem witness_JumpRegisterTrapsInOrder :
    (handler.reg .c10).tag = false ∧
    ((target .c10 6).reg .c10).archotype ∉ validOtypes .c10 .c1 ∧
    (((target .c10 1).reg .c10).archotype ∈ validOtypes .c10 .c1 ∧
      ((target .c10 1).reg .c10).archotype ≠ 0) ∧
    ((rw 0).tag = true ∧ (rw 0).archotype ∈ validOtypes .c10 .c1 ∧ (rw 0).isExec = false) ∧
    ((target .c10 3).reg .c10).archotype ∈ validOtypes .c10 .c1 := by decide +kernel

/-- A caller in `[0x20000000, 0x20000004)` with an interrupt-disabling sentry in c10. -/
def caller : State := { target .c10 2 with pcc := pccOf 4, mstatusMie := true }

theorem witness_SentryCallReturns :
    (caller.reg .c10).tag = true ∧ (caller.reg .c10).isExec = true ∧
      (caller.reg .c10).archotype = 2 ∧ caller.pcc.tag = true ∧ caller.pcc.isExec = true ∧
      (caller.pcc.base ≤ caller.pcc.top ∧ caller.pcc.top ≤ 4294967296 ∧
        caller.pcc.base ≤ caller.pcc.a.toNat ∧
        caller.pcc.a.toNat < caller.pcc.base + 2 ^ (caller.pcc.exp + 9)) ∧
      caller.pcc.base ≤ caller.pc.toNat ∧ caller.pc.toNat + 4 = caller.pcc.top ∧
      caller.pc.toNat + 4 < 4294967296 ∧ caller.pc.toNat % 2 = 0 ∧
      completes (exec (.cjalr .c1 .c10 0) caller) = true := by decide +kernel

/-- A caller whose next instruction would lie at 2^32, in a PCC of exponent 0 that ends there. -/
def topCaller : State :=
  { caller with pc := 0xFFFFFFFC, pcc := { pccOf 4 with a := 0xFFFFFFFC, b := 0x1FC, t := 0 } }

theorem topCaller_pcc : topCaller.pcc.wellFormed ∧ topCaller.pcc.base ≤ topCaller.pc.toNat ∧
    topCaller.pc.toNat + 4 = topCaller.pcc.top ∧ topCaller.pcc.top = 4294967296 ∧
    topCaller.pcc.exp = 0 := by
  unfold Cap.wellFormed
  decide +kernel

/-- R284, R38, R64: at the wrapped address 0, which PCC cannot represent, the link is untagged; at an
address PCC can represent it is tagged (log 27). -/
theorem test_link_at_top :
    holdsAfter (exec (.cjal .c1 0) topCaller)
      (fun t => ((t.reg .c1).tag, (t.reg .c1).a, (t.reg .c1).otype)) = some (false, 0, 5) ∧
    holdsAfter (exec (.cjal .c1 0) { topCaller with pc := 0xFFFFFFF8 })
      (fun t => ((t.reg .c1).tag, (t.reg .c1).a)) = some (true, 0xFFFFFFFC) := by decide +kernel

/-- The PCC of `topCaller` with its address where it cannot represent it. -/
def voidCap : Cap := topCaller.pcc.moved 0

theorem voidCap_void : voidCap.tag = true ∧ voidCap.void := by
  unfold Cap.void
  decide +kernel

/-- One store to the parcel at 0x100 since the last FENCE.I. -/
def stored : State := State.reset.memWrite 0x101 [7]

theorem witness_FenceResults :
    (stored.canonical ∧
      (∀ st, st ∈ stored.unfenced → st.touches 0x102 = false ∧ st.touches 0xFE = false)) ∧
    stored.unfenced = [⟨0x101, [7]⟩] ∧ UnfencedStore.touches ⟨0x101, [7]⟩ 0x100 = true ∧
    State.newParcel { stored with mem := stored.codeMem } 0x100 = 0 ∧
    stored.newParcel 0x100 = 0x0700 := by
  unfold State.canonical
  decide +kernel

theorem witness_WhatChangesPcc :
    (∃ t, exec .ecall handler = .next t) ∧ (∃ t, exec .mret handler = .next t) ∧
    ∃ t, exec (.cjalr .c1 .c10 0) (target .c10 2) = .next t :=
  ⟨next_of_completes (by decide +kernel), next_of_completes (by decide +kernel),
    next_of_completes (by decide +kernel)⟩

theorem witness_WhatChangesMie :
    holdsAfter (exec .ecall { handler with mstatusMie := true }) (fun t => t.mstatusMie) =
      some false ∧
    holdsAfter (exec .mret { handler with mstatusMpie := true }) (fun t => t.mstatusMie) =
      some true ∧
    holdsAfter (exec (.csrrwi .c0 0x300 8) handler) (fun t => t.mstatusMie) = some true ∧
    holdsAfter (exec (.cjalr .c1 .c10 0) (target .c10 3)) (fun t => t.mstatusMie) = some true ∧
    holdsAfter (exec (.cjalr .c1 .c10 0) caller) (fun t => t.mstatusMie) = some false := by
  decide +kernel

/-- Reset on the reference platform without misaligned accesses, with memory up to 0x20001080, and
with the given capability in c11. -/
def aligned (c : Cap) : State :=
  (State.resetOn { mappedBelow 0x20001080 with misalignedDataOk := false } ResetDraws.zero).setReg
    .c11 c

theorem witness_AccessTrapsInOrder :
    (Instr.clw .c10 .c11 0).access = some ⟨true, false, .c11, 0, 4, .c10, 4⟩ ∧
    (Instr.csc .c11 .c11 0).access = some ⟨false, true, .c11, 0, 8, .c11, 4⟩ ∧
    Cap.null.tag = false ∧ (mkcap true 0x7E420000 0x20001000).isSealed = true ∧
    (mkcap true 0x62020000 0x20001000).has .ld = false ∧
    (mkcap true 0x64020000 0x20001000).has .sd = false ∧
    ((mkcap true 0x66020000 0x20001000).tag = true ∧
      (mkcap true 0x66020000 0x20001000).has .sd = true ∧
      (mkcap true 0x66020000 0x20001000).has .mc = false) ∧
    ((rw 0xFD).has .ld = true ∧ (rw 0xFD).top + 1 = (rw 0xFD).a.toNat + 4) ∧
    ((rw 0xFC).top = (rw 0xFC).a.toNat + 4) ∧
    ((aligned (rw 1)).platform.misalignedDataOk = false ∧ (rw 1).a.toNat % 4 ≠ 0) ∧
    ((mapped (aligned (rw 0x80)).platform 0x20001080).isNone = true ∧
      (mapped (aligned (rw 0x7C)).platform 0x2000107F).isSome = true) := by decide +kernel

/-- `rw 0xF8` in c11 and in the stack capability: the last eight bytes of the bounds. -/
def edge : State := (caps (rw 4) (rw 0xF8) .null).setReg .c2 (rw 0xF8)

theorem witness_IntegerLoadResults :
    Grants edge .c11 .ld 0x200010FF 1 ∧ (Grants edge .c11 .ld 0x200010FE 2 ∧ Aligned edge 0x200010FE 2) ∧
    (Grants edge .c11 .ld 0x200010FC 4 ∧ Aligned edge 0x200010FC 4) ∧
    (Grants edge (CReg.c11).reg .ld 0x200010FC 4 ∧ Grants edge .c2 .ld 0x200010FC 4) := by
  unfold Grants Aligned
  decide +kernel

theorem witness_IntegerStoreResults :
    Grants edge .c11 .sd 0x200010FF 1 ∧ (Grants edge .c11 .sd 0x200010FE 2 ∧ Aligned edge 0x200010FE 2) ∧
    (Grants edge .c11 .sd 0x200010FC 4 ∧ Aligned edge 0x200010FC 4) ∧
    (Grants edge (CReg.c11).reg .sd 0x200010FC 4 ∧ Grants edge .c2 .sd 0x200010FC 4) := by
  unfold Grants Aligned
  decide +kernel

theorem witness_CapabilityLoadResults :
    (Grants edge .c11 .ld (edge.x .c11).toNat 8 ∧ (edge.x .c11).toNat % 8 = 0) ∧
    Grants edge (CReg.c11).reg .ld 0x200010F8 8 ∧ Grants edge .c2 .ld 0x200010F8 8 := by
  unfold Grants
  decide +kernel

theorem witness_CapabilityStoreResults :
    (Grants edge .c11 .sd (edge.x .c11).toNat 8 ∧ (edge.x .c11).toNat % 8 = 0) ∧
    Grants edge (CReg.c11).reg .sd 0x200010F8 8 ∧ Grants edge .c2 .sd 0x200010F8 8 ∧
    (edge.reg .c10).tag = true ∧ (edge.reg .c11).has .mc = true ∧ (edge.reg .c2).has .mc = true := by
  unfold Grants
  decide +kernel

theorem witness_OnlyCscSetsATag :
    (holdsAfter (exec (.csc .c10 .c11 0) edge) (fun t => t.tags.read 0x200010F8) = some true ∧
      edge.tags.read 0x200010F8 = false) ∧
    (tagged edge.platform 0x200010F8 = true ∧ Grants edge .c11 .sd 0x200010F8 8 ∧
      (edge.reg .c12).tag = false) ∧
    ((mkcap true 0x76020000 0x20001000).has .sl = false ∧
      (mkcap true 0x76020000 0x20001000).has .mc = true ∧ (mkcap true 0x3E020000 0).has .gl = false ∧
      (mkcap true 0x5F3E0000 0).archotype = 4 ∧ (mkcap true 0x5F7E0000 0).archotype = 5) := by
  unfold Grants
  decide +kernel

/-- `edge` with the mark at 0x20001100 and its base at 0x20001000. -/
def marked : State := { edge with mshwm := 0x2000110, mshwmb := 0x2000100 }

theorem witness_StackHighWaterMark :
    (holdsAfter (exec (.csrrwi .c0 0xBC1 16) marked) (fun t => t.shwmWord) = some 0x10 ∧
      marked.shwmWord ≠ 0x10) ∧
    ((Instr.csw .c10 .c11 7).access = some ⟨false, false, .c11, 7, 4, .c10, 4⟩ ∧
      holdsAfter (exec (.csw .c10 .c11 4) marked) (fun t => t.shwmWord) = some 0x200010F0) ∧
    (holdsAfter (exec (.csw .c10 .c11 7) marked) (fun t => t.mcause) = some 0x1C) ∧
    marked.shwmbWord.toNat ≤ marked.shwmWord.toNat := by decide +kernel

/-- `edge` with a capability in the granule at 0x200010F8 and `rw 0` in c12. -/
def copying : State := (edge.memWriteCap 0x200010F8 true (rw 4)).setReg .c12 (rw 0)

theorem witness_CapabilityCopyIsExact :
    Reg.c10 ≠ .c0 ∧ Reg.c10 ≠ .c12 ∧ Grants copying .c11 .ld 0x200010F8 8 ∧
      Grants copying .c12 .sd 0x20001000 8 ∧ (copying.reg .c11).has .mc = true ∧
      (copying.reg .c11).has .lm = true ∧ (copying.reg .c11).has .lg = true ∧
      (copying.reg .c12).has .mc = true ∧ (copying.reg .c12).has .sl = true ∧
      (∀ k, k < 8 → mapped copying.platform (0x20001000 + k) = some .ram) ∧
      tagged copying.platform 0x20001000 = true ∧
      copying.revoked (copying.loadCap 0x200010F8).base = false ∧
      (copying.loadCap 0x200010F8).tag = true ∧
      completes (exec (.clc .c10 .c11 0) copying) = true := by
  unfold Grants
  decide +kernel

theorem witness_LoadAfterStore :
    Reg.c10 ≠ .c0 ∧ Grants edge .c11 .sd 0x200010FC 4 ∧ (edge.reg .c11).has .ld = true ∧
      Aligned edge 0x200010FC 4 ∧
      (∀ k, k < 4 → mapped edge.platform (0x200010FC + k) = some .ram) ∧
      completes (exec (.csw .c10 .c11 4) edge) = true := by
  unfold Grants Aligned
  decide +kernel

theorem witness_MretResults : handler.hasSr = true ∧ unprivileged.hasSr = false := by
  decide +kernel

theorem witness_TrapThenMretResumes :
    Exc.envCallM ≠ .cheri .bounds .pcc ∧ handler.pcc.representable handler.pc = true ∧
      (handler.trap .envCallM).mepcc = (handler.trap .envCallM).mepcc ∧
      (handler.trap .envCallM).hasSr = true := by decide +kernel

theorem witness_CsrInstructionsComplete :
    (handler.csrForm (.csrrw .c10 0xBC1 .c11) = some ⟨.c10, 0xBC1, true, .write, 0⟩ ∧
      csrAt handler.platform 0xBC1 = some .mshwm ∧ readOnlyAddr 0xBC1 = false ∧
      handler.hasSr = true) ∧
    (unprivileged.csrForm (.csrrs .c10 0xC82 .c0) = some ⟨.c10, 0xC82, false, .set, 0⟩ ∧
      csrAt unprivileged.platform 0xC82 = some (.instret true) ∧
      0xC00 ≤ (0xC82#12).toNat ∧ (0xC82#12).toNat < 0xF00) := by decide +kernel

theorem witness_CsrReadValues : handler.hasSr = true ∧
    { handler with mcause := 0x1C }.mcause = 0x1C ∧ { handler with mcause := 7 }.mcause.toNat = 7 ∧
    31 ∈ irqOrder (pending 0).platform ∧
    28 < { Platform.reference with numHpm := 29 }.numHpm.val ∧
    0xC83#12 + BitVec.ofNat 12 28 = 0xC9F#12 := by decide +kernel

theorem witness_CsrWriteEffects : handler.hasSr = true := by decide +kernel

theorem witness_CsrTrapsInOrder :
    (handler.csrForm (.csrrs .c10 0x305 .c0)).map (·.addr) = some 0x305 ∧
    csrAt handler.platform 0xC03 = none ∧
    ((handler.csrForm (.csrrw .c10 0xC00 .c11)).map (·.writes) = some true ∧
      readOnlyAddr 0xC00 = true) ∧
    (unprivileged.hasSr = false ∧ csrAt unprivileged.platform 0xBFF = none ∧
      csrAt unprivileged.platform 0xF11 = some .mvendorid) ∧
    (State.resetOn { Platform.reference with shwmNoAsrCause := .illegal }
      ResetDraws.zero).platform.shwmNoAsrCause = .illegal := by decide +kernel

theorem witness_TrapScrWritesLegalised : handler.hasSr = true ∧ Reg.c11 ≠ .c0 := by
  decide +kernel

theorem witness_SpecialRegisterResults :
    handler.hasSr = true ∧ unprivileged.hasSr = false ∧ Reg.c11 ≠ .c0 := by decide +kernel

theorem witness_NoSystemChangeWithoutSr : unprivileged.hasSr = false ∧
    holdsAfter (exec (.addi .c10 .c0 1) unprivileged) (fun t => (t.pc, t.mcause)) =
      some (0x20000004, 0) ∧ ∀ e, (unprivileged.trap e).pc = 0x20000100 :=
  ⟨by decide +kernel, by decide +kernel, fun _ => rfl⟩

theorem witness_AndPermResults : handler.platform.candpermSealedGlOk = false ∧
    (State.resetOn { Platform.reference with candpermSealedGlOk := true }
      ResetDraws.zero).platform.candpermSealedGlOk = true := by decide +kernel

theorem rw_wellFormed : (rw 0xFF).wellFormed := by
  unfold Cap.wellFormed
  decide +kernel

theorem witness_RepresentableRange : (rw 0xFF).wellFormed ∧ rootM.wellFormed ∧
    (rw 0xFF).top < 4294967296 := by
  unfold Cap.wellFormed
  decide +kernel

theorem witness_SetBoundsMonotone : (rw 0xFF).wellFormed ∧ (rw 0xFF).base ≤ (rw 0xFF).a.toNat ∧
    (rw 0xFF).a.toNat + (1#32).toNat = (rw 0xFF).top := ⟨rw_wellFormed, by decide +kernel⟩

theorem witness_ResetInvariants : ResetDraws.zero.tags = [] := rfl

theorem witness_CanonicalKept : (placed 32 0x100000EF).canonical ∧
    ∃ t, step (placed 32 0x100000EF) = .next t :=
  ⟨by unfold State.canonical; decide +kernel, next_of_completes (by decide +kernel)⟩

theorem witness_PccSoundKept : (placed 32 0x100000EF).pccSound ∧
    ∃ t, step (placed 32 0x100000EF) = .next t :=
  ⟨by unfold State.pccSound Cap.installable; decide +kernel,
    next_of_completes (by decide +kernel)⟩

theorem handler_capsWellFormed : handler.capsWellFormed := by
  refine ⟨fun g _ h => ?_, fun c h t => ?_⟩
  · cases h
  · cases h with
    | reg r => cases r <;> cases t
    | pcc => unfold Cap.wellFormed; decide +kernel
    | scr n => cases n <;> (unfold Cap.wellFormed; decide +kernel)
    | memory g a => simp [State.loadCap, mkcap, handler, TagMemory.read, State.reset,
        State.resetOn, ResetDraws.tagMemory, ResetDraws.zero] at t

theorem handler_capsSound : handler.capsSound :=
  ⟨handler_capsWellFormed.1, fun c h t => .inl (handler_capsWellFormed.2 c h t)⟩

/-- `handler` with a capability whose bounds are out of order in c1. -/
def voidHolder : State := handler.setReg .c1 voidCap

theorem voidHolder_capsSound : voidHolder.capsSound := by
  refine ⟨handler_capsWellFormed.1, fun c h t => ?_⟩
  cases h with
  | reg r =>
    by_cases hr : r = .c1
    · subst hr; exact .inr voidCap_void.2
    · cases r <;> first | exact absurd rfl hr | cases t
  | pcc => exact handler_capsSound.2 _ .pcc t
  | scr n => exact handler_capsSound.2 _ (.scr n) t
  | memory g a => exact handler_capsSound.2 _ (.memory g a) t

theorem witness_CapsWellFormedKept :
    (handler.capsWellFormed ∧ ∃ t, step handler = .next t) ∧
    (voidHolder.capsSound ∧ ∃ t, step voidHolder = .next t) :=
  ⟨⟨handler_capsWellFormed, next_of_completes (by decide +kernel)⟩,
    voidHolder_capsSound, next_of_completes (by decide +kernel)⟩

theorem witness_ProvenanceMonotone : handler.capsSound ∧
    (∃ t, step handler = .next t) ∧ handler.holds rootM ∧ rootM.tag = true :=
  ⟨handler_capsSound, next_of_completes (by decide +kernel), .scr .mtdc, rfl⟩

end Sys2Proof.Tests
end

section
/-! SUPPORT. The state rules of 10_state.md: the register file, the permission encoding, what a trap SCR
keeps of a written capability, and reset. -/

namespace Sys2Proof.Machine

/-! ## Registers -/

/-- Settles O10: the laws of `reg` and `setReg`, with the `c0` case excluded by the hypothesis. -/
theorem registerZero : Obligations.RegisterZero := by
  intro s v
  refine ⟨s.reg_c0, s.setReg_c0 v, fun r d hr => ?_⟩
  rw [State.reg_setReg]
  simp only [hr, ne_eq, not_false_eq_true, and_true]

/-! ## Low bits of a word -/

/-- Clearing the low `k` bits rounds down to a multiple of `2 ^ k`. -/
theorem and_clearLow (a : Word) (k : Nat) :
    a &&& (BitVec.allOnes 32 <<< k) = BitVec.ofNat 32 (a.toNat / 2 ^ k * 2 ^ k) := by
  rw [← BitVec.shiftLeft_ushiftRight]
  apply BitVec.eq_of_toNat_eq
  rw [BitVec.toNat_shiftLeft, BitVec.toNat_ushiftRight, BitVec.toNat_ofNat, Nat.shiftLeft_eq,
    Nat.shiftRight_eq_div_pow]

/-- The low `k` bits are clear exactly in a multiple of `2 ^ k`. -/
theorem lowBits_beq_zero (a : Word) (k : Nat) :
    (a.extractLsb' 0 k == 0#k) = (a.toNat % 2 ^ k == 0) := by
  have h : (a.extractLsb' 0 k).toNat = a.toNat % 2 ^ k := by simp
  rw [Bool.eq_iff_iff, beq_iff_eq, beq_iff_eq, ← BitVec.toNat_inj, h, BitVec.toNat_ofNat,
    Nat.zero_mod]

/-! ## Trap SCRs (R82, R83) -/

/-- R82: MTCC keeps the address rounded down to a multiple of 4, and the tag of an aligned, unsealed,
executable value. -/
theorem legalMtcc_eq (v : Cap) : legalMtcc v =
    { v with
      a := BitVec.ofNat 32 (v.a.toNat / 4 * 4)
      tag := v.tag && v.a.toNat % 4 == 0 && !v.isSealed && v.isExec } := by
  have ha : v.a &&& 0xFFFFFFFC = BitVec.ofNat 32 (v.a.toNat / 4 * 4) := and_clearLow v.a 2
  have ht : (v.a.extractLsb' 0 2 == 0#2) = (v.a.toNat % 4 == 0) := lowBits_beq_zero v.a 2
  rw [legalMtcc, ha, ht]

/-- R83: as `legalMtcc_eq` with alignment to 2. -/
theorem legalMepcc_eq (v : Cap) : legalMepcc v =
    { v with
      a := BitVec.ofNat 32 (v.a.toNat / 2 * 2)
      tag := v.tag && v.a.toNat % 2 == 0 && !v.isSealed && v.isExec } := by
  have ha : v.a &&& 0xFFFFFFFE = BitVec.ofNat 32 (v.a.toNat / 2 * 2) := and_clearLow v.a 1
  have ht : (v.a.extractLsb' 0 1 == 0#1) = (v.a.toNat % 2 == 0) := lowBits_beq_zero v.a 1
  rw [legalMepcc, ha, ht]

/-- What MTCC holds may be installed in PCC, at a multiple of 4, whatever was written. -/
theorem legalMtcc_sound (v : Cap) :
    (legalMtcc v).installable ∧ (legalMtcc v).a.toNat % 4 = 0 := by
  constructor
  · intro ht
    have h : v.isSealed = false ∧ v.isExec = true := by
      simp only [legalMtcc, Bool.and_eq_true, Bool.not_eq_true'] at ht
      obtain ⟨⟨-, hsealed⟩, hexec⟩ := ht
      exact ⟨hsealed, hexec⟩
    exact h
  · rw [legalMtcc_eq]
    simp only [BitVec.toNat_ofNat]
    omega

/-- CSpecialRW under SR with a source other than `c0` (R348 steps 4 to 6). -/
theorem exec_cspecialrw_write {s : State} {cs1 : Reg} (cd : Reg) (n : Scr) (hs : s.hasSr = true)
    (hc : cs1 ≠ .c0) :
    exec (.cspecialrw cd n cs1) s =
      .next (((s.setScr n (s.reg cs1)).setReg cd (s.scr n)).advance 4) := by
  change execCspecialrw cd n cs1 s = _
  rw [execCspecialrw, if_pos hs, State.swapScr, if_neg hc]

/-- Settles O41: the write puts the legalised value in the SCR (`exec_cspecialrw_write`), which
`legalMtcc_eq` and `legalMepcc_eq` give in arithmetic form. -/
theorem trapScrWritesLegalised : Obligations.TrapScrWritesLegalised := by
  intro s cd cs1 hs hc v
  constructor
  · refine ⟨_, exec_cspecialrw_write cd .mtcc hs hc, ?_, fun ht => ?_⟩
    · rw [← legalMtcc_eq]
      rfl
    · obtain ⟨hinst, haligned⟩ := legalMtcc_sound v
      exact ⟨(hinst ht).1, (hinst ht).2, haligned⟩
  · refine ⟨_, exec_cspecialrw_write cd .mepcc hs hc, ?_⟩
    rw [← legalMepcc_eq]
    rfl

/-! ## Permissions (R46, R47)

`encperms` chooses one of six formats. One lemma per format says what `permsOf` decodes a field of that
format to, as a vector with its bits in view. -/

/-- A vector drawn from its bits holds the permissions of those bits. -/
theorem hasPerm_permVector (u0 se us ex sr mc ld sl lm sd lg gl : Bool) (q : Perm) :
    hasPerm (permVector u0 se us ex sr mc ld sl lm sd lg gl) q =
      match q with
      | .gl => gl | .lg => lg | .sd => sd | .lm => lm | .sl => sl | .ld => ld
      | .mc => mc | .sr => sr | .ex => ex | .us => us | .se => se | .u0 => u0 := by
  simp only [hasPerm, permVector, BitVec.getLsbD_append]
  cases q <;> simp [Perm.bit]

section Formats
variable (gl a b c : Bool)

theorem permsOf_executable :
    permsOf (BitVec.ofBool gl ++ (1#2 ++ BitVec.ofBool a ++ BitVec.ofBool b ++ BitVec.ofBool c)) =
      permVector false false false true a true true false b false c gl := by
  revert gl a b c; decide

theorem permsOf_memCapReadWrite :
    permsOf (BitVec.ofBool gl ++ (3#2 ++ BitVec.ofBool a ++ BitVec.ofBool b ++ BitVec.ofBool c)) =
      permVector false false false false false true true a b true c gl := by
  revert gl a b c; decide

theorem permsOf_memCapReadOnly :
    permsOf (BitVec.ofBool gl ++ (5#3 ++ BitVec.ofBool a ++ BitVec.ofBool b)) =
      permVector false false false false false true true false a false b gl := by
  revert gl a b; decide

theorem permsOf_memCapWriteOnly :
    permsOf (BitVec.ofBool gl ++ 16#5) =
      permVector false false false false false true false false false true false gl := by
  revert gl; decide

theorem permsOf_memData (h : (a || b) = true) :
    permsOf (BitVec.ofBool gl ++ (4#3 ++ BitVec.ofBool a ++ BitVec.ofBool b)) =
      permVector false false false false false false a false false b false gl := by
  revert gl a b; decide

theorem permsOf_sealing :
    permsOf (BitVec.ofBool gl ++ (0#2 ++ BitVec.ofBool a ++ BitVec.ofBool b ++ BitVec.ofBool c)) =
      permVector a b c false false false false false false false false gl := by
  revert gl a b c; decide

end Formats

/-- Encoding drops permissions and never adds one: in each format, the ones that are implied are those
the set was chosen to have, and the others are copied from the set. -/
theorem hasPerm_of_encperms {m : BitVec 12} {q : Perm}
    (h : hasPerm (permsOf (encperms m)) q = true) : hasPerm m q = true := by
  unfold encperms encpermsLow at h
  split_ifs at h with hx hrw hro hwo hdata
  all_goals
    simp only [permsOf_executable, permsOf_memCapReadWrite, permsOf_memCapReadOnly,
      permsOf_memCapWriteOnly, permsOf_memData, permsOf_sealing, hasPerm_permVector, *] at h
    cases q <;> simp_all

/-- Every one of the 64 fields is what encoding gives of the set it decodes to. -/
theorem encperms_permsOf : ∀ p : BitVec 6, encperms (permsOf p) = p := by decide

/-- A bit appended below doubles the value. -/
theorem toNat_append_ofBool {n : Nat} (x : BitVec n) (b : Bool) :
    (x ++ BitVec.ofBool b).toNat = x.toNat * 2 + b.toNat :=
  BitVec.toNat_concat x b

/-- GL is bit 5 of the field, above the five bits of the format. -/
theorem encperms_toNat (m : BitVec 12) :
    (encperms m).toNat = (hasPerm m .gl).toNat * 32 + (encpermsLow m).toNat := by
  rw [encperms, BitVec.toNat_append, BitVec.toNat_ofBool,
    ← Nat.shiftLeft_add_eq_or_of_lt (encpermsLow m).isLt, Nat.shiftLeft_eq]

/-- Settles O51: the steps of R47 are the branches of `encpermsLow`, read as numbers; that no permission
is added is `hasPerm_of_encperms`, and the round trip `encperms_permsOf`. -/
theorem permissionEncoding : Obligations.PermissionEncoding := by
  refine ⟨fun m => ⟨?_, fun q => hasPerm_of_encperms⟩, encperms_permsOf⟩
  simp only [encperms_toNat, encpermsLow]
  split_ifs
  all_goals simp only [toNat_append_ofBool, BitVec.toNat_ofNat]
  all_goals omega

/-! ## Reset (R52, R114)

A root has exponent 24, B = 0 and T = 256: an address is below 256 units of 2 ^ 24, so neither correction
of R62 applies and the decoded bounds are those of the whole address space. -/

section Roots
variable (p : BitVec 6) (a : Word)

theorem rootCap_moved_exp : ((rootCap p).moved a).exp = 24 := rfl
theorem rootCap_moved_b : ((rootCap p).moved a).b.toNat = 0 := rfl
theorem rootCap_moved_t : ((rootCap p).moved a).t.toNat = 256 := rfl

theorem rootCap_moved_aTop : ((rootCap p).moved a).aTop = 0 := by
  rw [Cap.aTop, rootCap_moved_exp]
  exact Nat.div_eq_of_lt (a.isLt.trans (by decide))

theorem rootCap_moved_aMid_lt : ((rootCap p).moved a).aMid < 256 := by
  have h : a.toNat / 2 ^ 24 < 256 := Nat.div_lt_of_lt_mul a.isLt
  rw [Cap.aMid, rootCap_moved_exp]
  exact (Nat.mod_le _ _).trans_lt h

theorem rootCap_moved_baseCorrection : ((rootCap p).moved a).baseCorrection = 0 :=
  if_neg (Nat.not_lt_zero _)

theorem rootCap_moved_topCorrection : ((rootCap p).moved a).topCorrection = 0 := by
  have hmid := rootCap_moved_aMid_lt p a
  rw [Cap.topCorrection, rootCap_moved_b, rootCap_moved_t, if_neg (by omega), if_neg (by omega)]

/-- R52: wherever its address points, a root has base 0. -/
theorem rootCap_moved_base : ((rootCap p).moved a).base = 0 := by
  rw [Cap.base, rootCap_moved_aTop, rootCap_moved_baseCorrection, rootCap_moved_b, rootCap_moved_exp]
  rfl

/-- R52: wherever its address points, the top of a root is the end of the address space. -/
theorem rootCap_moved_top : ((rootCap p).moved a).top = 4294967296 := by
  rw [Cap.top, rootCap_moved_aTop, rootCap_moved_topCorrection, rootCap_moved_t, rootCap_moved_exp]
  rfl

end Roots

/-- R52: the permissions of the three roots. -/
theorem rootX_perms : rootX.perms = 0x1EB#12 := by decide
theorem rootM_perms : rootM.perms = 0x07F#12 := by decide
theorem rootS_perms : rootS.perms = 0xE01#12 := by decide

theorem rootX_high : rootX.high = 0x5E3E0000#32 := by decide

theorem rootX_has_sr : rootX.has .sr = true := by decide

/-- With MIE clear no interrupt is taken (R470). -/
theorem interrupt_of_mie_clear {s : State} (h : s.mstatusMie = false) : s.interrupt = none := by
  rw [State.interrupt, h]
  rfl

section ResetOn
variable (p : Platform) (d : ResetDraws)

theorem resetOn_reg (r : Reg) : (State.resetOn p d).reg r = Cap.null := by
  cases r <;> rfl

/-- Each SCR is a root at address 0. -/
theorem resetOn_scr_root (n : Scr) : ∃ q, (State.resetOn p d).scr n = (rootCap q).moved 0 := by
  cases n <;> exact ⟨_, rfl⟩

theorem resetOn_scr_bounds (n : Scr) :
    ((State.resetOn p d).scr n).base = 0 ∧ ((State.resetOn p d).scr n).top = 4294967296 := by
  obtain ⟨q, hq⟩ := resetOn_scr_root p d n
  rw [hq]
  exact ⟨rootCap_moved_base q 0, rootCap_moved_top q 0⟩

theorem resetOn_pc : (State.resetOn p d).pc.toNat = 2 * p.resetPcHigh.toNat := by
  have h : (State.resetOn p d).pc.toNat = p.resetPcHigh.toNat * 2 + 0 :=
    toNat_append_ofBool p.resetPcHigh false
  omega

/-- `misa` tells of the M extension by bit 12 (R93). -/
theorem misaWord_toNat : (misaWord p).toNat = 0x40800014 + 4096 * p.hasM.toNat := by
  unfold misaWord
  cases p.hasM <;> rfl

end ResetOn

/-- Settles O55: the registers, the bounds of the roots, the reset PC and `misa` by the lemmas above; the
rest is what `State.resetOn` assigns. -/
theorem resetState : Obligations.ResetState := by
  intro p d s
  have hpccBase : s.pcc.base = 0 := rootCap_moved_base _ _
  have hpccTop : s.pcc.top = 4294967296 := rootCap_moved_top _ _
  have hmisa : (s.readCsr .misa).toNat = 0x40800014 + 4096 * p.hasM.toNat := misaWord_toNat p
  exact ⟨resetOn_reg p d, rfl, rootX_high, rfl, resetOn_pc p d, hpccBase, hpccTop, rfl, rfl, rfl, rfl,
    resetOn_scr_bounds p d, rootX_perms, rootM_perms, rootS_perms, rfl, rootX_has_sr,
    interrupt_of_mie_clear rfl, rfl, rfl, rfl, rfl, rfl, rfl, rfl, rfl, rfl, rfl, rfl, rfl, rfl, rfl,
    hmisa, rfl, rfl, rfl, rfl⟩

end Sys2Proof.Machine
end

section
/-! SUPPORT. The memory rules of 20_memory.md: which instructions touch tags and the stack high water
mark, and what they make of them. -/

namespace Sys2Proof.Machine

section Effects
variable {s t : State} {i : Instr} {m : Access}

/-! ## Loads and stores as accesses -/

/-- Zeros appended below a value scale it. -/
theorem toNat_append_zeros {n k : Nat} (x : BitVec n) : (x ++ 0#k).toNat = x.toNat * 2 ^ k := by
  rw [BitVec.toNat_append, BitVec.toNat_ofNat, Nat.zero_mod, Nat.or_zero, Nat.shiftLeft_eq]

/-- The scaled immediates of the 16-bit forms, as shifts. -/
theorem setWidth_append_zeros {n k : Nat} (u : BitVec n) :
    (u ++ 0#k).setWidth 32 = u.setWidth 32 <<< k := by
  apply BitVec.eq_of_toNat_eq
  rw [BitVec.toNat_setWidth, toNat_append_zeros, BitVec.toNat_shiftLeft, BitVec.toNat_setWidth,
    Nat.shiftLeft_eq, Nat.mod_mul_mod]

/-- `r` is what the shared operation of a load or store answers for this access. -/
inductive Access.Answers (s : State) (r : Result) : Access → Prop where
  | load (k : LoadKind) (base : Reg) (imm : Word) (rd : Reg) (len : Word)
      (h : r = opLoad k len rd base imm s) : Answers s r ⟨true, false, base, imm, k.size, rd, len⟩
  | loadCap (base : Reg) (imm : Word) (cd : Reg) (len : Word)
      (h : r = opLoadCap len cd base imm s) : Answers s r ⟨true, true, base, imm, 8, cd, len⟩
  | store (n : Nat) (base : Reg) (imm : Word) (rs2 : Reg) (len : Word)
      (h : r = opStore n len rs2 base imm s) : Answers s r ⟨false, false, base, imm, n, rs2, len⟩
  | storeCap (base : Reg) (imm : Word) (cs2 : Reg) (len : Word)
      (h : r = opStoreCap len cs2 base imm s) : Answers s r ⟨false, true, base, imm, 8, cs2, len⟩

/-- Every load and store is the shared operation of its access, in its 32-bit and its 16-bit form. -/
theorem exec_answers (s : State) (ha : i.access = some m) : m.Answers s (exec i s) := by
  cases i with
  | clb => cases ha; exact .load .byte _ _ _ _ rfl
  | clh => cases ha; exact .load .half _ _ _ _ rfl
  | clw => cases ha; exact .load .word _ _ _ _ rfl
  | clbu => cases ha; exact .load .byteU _ _ _ _ rfl
  | clhu => cases ha; exact .load .halfU _ _ _ _ rfl
  | clc => cases ha; exact .loadCap _ _ _ _ rfl
  | csb => cases ha; exact .store 1 _ _ _ _ rfl
  | csh => cases ha; exact .store 2 _ _ _ _ rfl
  | csw => cases ha; exact .store 4 _ _ _ _ rfl
  | csc => cases ha; exact .storeCap _ _ _ _ rfl
  | rvcLw rd cs1 u => cases ha; rw [← setWidth_append_zeros]; exact .load .word _ _ _ _ rfl
  | rvcLc cd cs1 u => cases ha; rw [← setWidth_append_zeros]; exact .loadCap _ _ _ _ rfl
  | rvcSw rs2 cs1 u => cases ha; rw [← setWidth_append_zeros]; exact .store 4 _ _ _ _ rfl
  | rvcSc cs2 cs1 u => cases ha; rw [← setWidth_append_zeros]; exact .storeCap _ _ _ _ rfl
  | rvcLwsp rd u => cases ha; rw [← setWidth_append_zeros]; exact .load .word _ _ _ _ rfl
  | rvcLcsp cd u => cases ha; rw [← setWidth_append_zeros]; exact .loadCap _ _ _ _ rfl
  | rvcSwsp rs2 u => cases ha; rw [← setWidth_append_zeros]; exact .store 4 _ _ _ _ rfl
  | rvcScsp cs2 u => cases ha; rw [← setWidth_append_zeros]; exact .storeCap _ _ _ _ rfl
  | _ => cases ha

/-- A capability store is CSC's operation on its access. -/
theorem exec_storeCap (s : State) (ha : i.access = some m) (hl : m.isLoad = false)
    (hc : m.isCap = true) : exec i s = opStoreCap m.len m.data m.base m.imm s := by
  cases exec_answers s ha with
  | load => cases hl
  | loadCap => cases hl
  | store => cases hc
  | storeCap base imm cs2 len h => exact h

/-- What a load or store can do: trap, write its destination, store an integer, or store a
capability. -/
theorem access_next (ha : i.access = some m) (h : exec i s = .next t) :
    (∃ e, t = s.trap e) ∨
    (m.isLoad = true ∧ ∃ v, t = (s.setReg m.data v).advance m.len) ∨
    (m.isLoad = false ∧ m.isCap = false ∧
      t = (s.memWrite (s.accessAddr m) ((wordBytes (s.x m.data)).take m.size)).advance m.len) ∨
    (m.isLoad = false ∧ m.isCap = true ∧
      t = (s.memWriteCap (s.accessAddr m) (storedTag (s.reg m.base) (s.reg m.data))
        (s.reg m.data)).advance m.len) := by
  cases exec_answers s ha with
  | load k base imm rd len hr =>
    rcases opLoad_next (hr.symm.trans h) with ⟨e, -, rfl⟩ | ⟨-, rfl⟩
    · exact .inl ⟨e, rfl⟩
    · exact .inr (.inl ⟨rfl, _, rfl⟩)
  | loadCap base imm cd len hr =>
    rcases opLoadCap_next (hr.symm.trans h) with ⟨e, -, rfl⟩ | ⟨-, rfl⟩
    · exact .inl ⟨e, rfl⟩
    · exact .inr (.inl ⟨rfl, _, rfl⟩)
  | store n base imm rs2 len hr =>
    rcases opStore_next (hr.symm.trans h) with ⟨e, -, rfl⟩ | ⟨-, rfl⟩
    · exact .inl ⟨e, rfl⟩
    · exact .inr (.inr (.inl ⟨rfl, rfl, rfl⟩))
  | storeCap base imm cs2 len hr =>
    rcases opStoreCap_next (hr.symm.trans h) with ⟨e, -, rfl⟩ | ⟨-, rfl⟩
    · exact .inl ⟨e, rfl⟩
    · exact .inr (.inr (.inr ⟨rfl, rfl, rfl⟩))

/-! ## CSR instructions -/

theorem decide_ne_eq_bne {α : Type} [DecidableEq α] (a b : α) : decide (a ≠ b) = (a != b) := by
  rw [bne, Bool.beq_eq_decide_eq, decide_not]

/-- Every CSR instruction is the common procedure on its form (R340). -/
theorem exec_of_csrForm {f : CsrForm} (h : s.csrForm i = some f) :
    exec i s = opCsr i f.addr f.rd f.writes (fun old => f.op.apply old f.operand) s := by
  cases i with
  | csrrw => cases h; rfl
  | csrrs => cases h; rw [decide_ne_eq_bne]; rfl
  | csrrc => cases h; rw [decide_ne_eq_bne]; rfl
  | csrrwi => cases h; rw [BitVec.ofNat_toNat]; rfl
  | csrrsi => cases h; rw [decide_ne_eq_bne, BitVec.ofNat_toNat]; rfl
  | csrrci => cases h; rw [decide_ne_eq_bne, BitVec.ofNat_toNat]; rfl
  | _ => cases h

/-- Only a write of the mark itself changes it. -/
theorem writeCsr_mshwm_of_ne {c : Csr} (hc : c ≠ .mshwm) (v : Word) :
    (s.writeCsr c v).mshwm = s.mshwm := by
  cases c with
  | mshwm => exact absurd rfl hc
  | _ => rfl

theorem hpmCsr_ne_mshwm (p : Platform) (n : Nat) (half : Bool) : hpmCsr p n half ≠ some .mshwm := by
  unfold hpmCsr
  split_ifs <;> simp

/-- The mark is the register at 0xBC1 and at no other address (R91). -/
theorem addr_of_csrAt_mshwm {p : Platform} {addr : BitVec 12} (h : csrAt p addr = some .mshwm) :
    addr = 0xBC1#12 := by
  by_contra hne
  simp [csrAt, hne, hpmCsr_ne_mshwm, ite_eq_iff] at h

/-- No CSR instruction changes a tag, and only a write of `mshwm` changes the mark. -/
theorem opCsr_tags_mark {addr : BitVec 12} {rd : Reg} {writes : Bool} {f : Word → Word}
    (h : opCsr i addr rd writes f s = .next t) :
    t.tags = s.tags ∧ (SameMark s t ∨ writes = true ∧ addr = 0xBC1) := by
  rcases opCsr_next h with ⟨e, -, rfl⟩ | ⟨hcheck, rfl⟩
  · exact ⟨rfl, .inl rfl⟩
  · obtain ⟨c, hc, -, -⟩ := checkCsr_none hcheck
    rw [accessCsr_eq hc]
    cases writes with
    | false => exact ⟨rfl, .inl rfl⟩
    | true =>
      refine ⟨s.writeCsr_tags c _, ?_⟩
      by_cases hm : c = .mshwm
      · exact .inr ⟨rfl, addr_of_csrAt_mshwm (hm ▸ hc)⟩
      · exact .inl (writeCsr_mshwm_of_ne hm _)

/-! ## Instructions that are neither -/

/-- The tags and the mark are what they were. -/
def SameTagsMark (s t : State) : Prop := t.tags = s.tags ∧ SameMark s t

theorem raise_sameTagsMark {e : Exc} (h : raise e s = .next t) : SameTagsMark s t := by
  rw [raise_next h]
  exact ⟨rfl, rfl⟩

theorem finishC_sameTagsMark {len : Word} {cd : Reg} {v : Cap} (h : finishC len cd v s = .next t) :
    SameTagsMark s t := by
  rw [finishC_next h]
  exact ⟨rfl, rfl⟩

theorem finishX_sameTagsMark {len : Word} {rd : Reg} {v : Word} (h : finishX len rd v s = .next t) :
    SameTagsMark s t := finishC_sameTagsMark h

theorem opM_sameTagsMark {f : Word → Word → Word} {rd rs1 rs2 : Reg}
    (h : opM i f rd rs1 rs2 s = .next t) : SameTagsMark s t := by
  rcases opM_next h with ⟨-, rfl⟩ | ⟨-, rfl⟩
  all_goals exact ⟨rfl, rfl⟩

theorem opCjal_sameTagsMark {len : Word} {cd : Reg} {off : Word}
    (h : opCjal len cd off s = .next t) : SameTagsMark s t := by
  rw [opCjal_next h]
  exact ⟨rfl, rfl⟩

theorem opCjalr_sameTagsMark {len : Word} {cd cs1 : Reg} {imm : Word}
    (h : opCjalr len cd cs1 imm s = .next t) : SameTagsMark s t := by
  rcases opCjalr_next h with ⟨e, -, rfl⟩ | ⟨-, rfl⟩
  all_goals exact ⟨rfl, rfl⟩

theorem opBranch_sameTagsMark {cond : Word → Word → Bool} {len : Word} {rs1 rs2 : Reg} {off : Word}
    (h : opBranch cond len rs1 rs2 off s = .next t) : SameTagsMark s t := by
  rcases opBranch_next h with ⟨-, rfl⟩ | ⟨-, rfl⟩
  all_goals exact ⟨rfl, rfl⟩

theorem opNone_sameTagsMark {len : Word} (h : opNone len s = .next t) : SameTagsMark s t := by
  rw [opNone_next h]
  exact ⟨rfl, rfl⟩

theorem execMret_sameTagsMark (h : execMret s = .next t) : SameTagsMark s t := by
  unfold execMret at h
  split at h
  · rw [next_inj h]
    exact ⟨rfl, rfl⟩
  · exact raise_sameTagsMark h

theorem execCspecialrw_sameTagsMark {cd : Reg} {n : Scr} {cs1 : Reg}
    (h : execCspecialrw cd n cs1 s = .next t) : SameTagsMark s t := by
  unfold execCspecialrw at h
  split at h
  · rw [next_inj h]
    unfold State.swapScr
    split
    · exact ⟨rfl, rfl⟩
    · cases n <;> exact ⟨rfl, rfl⟩
  · exact raise_sameTagsMark h

/-- An instruction that is neither a load, a store nor a CSR instruction leaves the tags and the
mark. -/
theorem exec_sameTagsMark (ha : i.access = none) (hf : s.csrForm i = none)
    (h : exec i s = .next t) : SameTagsMark s t := by
  cases i with
  | lui | addi | slti | sltiu | xori | ori | andi | slli | srli | srai | add | sub | sll | slt | sltu
  | xor | srl | sra | or | and | cgetperm | cgettype | cgetbase | cgetlen | cgettop | cgettag
  | cgetaddr | cgethigh | csub | ctestsubset | csetequalexact | crrl | cram | rvcNop | rvcAddi | rvcLi
  | rvcLui | rvcSrli | rvcSrai | rvcAndi | rvcSub | rvcXor | rvcOr | rvcAnd | rvcSlli | rvcAdd =>
    exact finishX_sameTagsMark h
  | auipcc | auicgp | cincaddr | cincaddrimm | csetaddr | csetbounds | csetboundsexact
  | csetboundsimm | candperm | cseal | cunseal | cmove | ccleartag | csethigh | rvcAddi4spn
  | rvcAddi16sp | rvcMv => exact finishC_sameTagsMark h
  | mul | mulh | mulhsu | mulhu | div | divu | rem | remu => exact opM_sameTagsMark h
  | cjal | rvcJal | rvcJ => exact opCjal_sameTagsMark h
  | cjalr | rvcJr | rvcJalr => exact opCjalr_sameTagsMark h
  | beq | bne | blt | bltu | rvcBeqz | rvcBnez => exact opBranch_sameTagsMark h
  | bge => exact opBranch_sameTagsMark (cond := fun a b => !a.slt b) h
  | bgeu => exact opBranch_sameTagsMark (cond := fun a b => !a.ult b) h
  | fence | wfi => exact opNone_sameTagsMark h
  | fencei => rw [next_inj h]; exact ⟨rfl, rfl⟩
  | ecall => exact raise_sameTagsMark (e := .envCallM) h
  | ebreak | rvcEbreak => exact raise_sameTagsMark (e := .breakpoint s.pc) h
  | mret => exact execMret_sameTagsMark h
  | cspecialrw => exact execCspecialrw_sameTagsMark h
  | csrrw | csrrs | csrrc | csrrwi | csrrsi | csrrci => cases hf
  | clb | clh | clw | clbu | clhu | clc | csb | csh | csw | csc | rvcLw | rvcLc | rvcSw | rvcSc
  | rvcLwsp | rvcLcsp | rvcSwsp | rvcScsp => cases ha

/-- An instruction that is neither a load nor a store leaves the tags, and the mark too unless it is a
CSR instruction that writes `mshwm`. -/
theorem exec_tags_mark_of_noAccess (ha : i.access = none) (h : exec i s = .next t) :
    t.tags = s.tags ∧
      (SameMark s t ∨ ∃ f, s.csrForm i = some f ∧ f.writes = true ∧ f.addr = 0xBC1) := by
  cases hf : s.csrForm i with
  | none =>
    obtain ⟨htags, hmark⟩ := exec_sameTagsMark ha hf h
    exact ⟨htags, .inl hmark⟩
  | some f =>
    obtain ⟨htags, hmark⟩ := opCsr_tags_mark ((exec_of_csrForm hf).symm.trans h)
    exact ⟨htags, hmark.imp_right fun hw => ⟨f, rfl, hw⟩⟩

/-! ## Tags (R135) -/

/-- An integer store sets no tag (R131). -/
theorem memWrite_sets_no_tag {addr : Word} {bytes : List Byte} {g : Nat}
    (h : (s.memWrite addr bytes).tags.read g = true) : s.tags.read g = true := by
  rw [State.memWrite_tags, clearTags_read, Bool.and_eq_true] at h
  exact h.1

/-- A capability store sets no tag but that of its granule, and that one only to the tag it stores
(R134). -/
theorem memWriteCap_sets_tag {addr : Word} {v : Cap} {tag : Bool} {g : Nat}
    (h : (s.memWriteCap addr tag v).tags.read g = true) (hs : s.tags.read g = false) :
    g = addr.toNat ∧ tag = true := by
  rw [State.memWriteCap_tags, storeTag_read] at h
  split at h
  · rename_i hg
    rw [Bool.and_eq_true] at h
    exact ⟨hg.1, h.1⟩
  · exact absurd (h.symm.trans hs) (by decide)

/-- A stored tag is that of a tagged value (R311 step 4). -/
theorem tag_of_storedTag {auth v : Cap} (h : storedTag auth v = true) : v.tag = true := by
  rw [storedTag, Bool.and_eq_true] at h
  exact h.1

/-- The values CSC stores without a tag: untagged ones, and without SL local ones and backward sentries
(R311 step 4). -/
theorem storedTag_eq_false {auth v : Cap}
    (h : v.tag = false ∨ auth.has .sl = false ∧
      (v.has .gl = false ∨ v.archotype = 4 ∨ v.archotype = 5)) : storedTag auth v = false := by
  rcases h with htag | ⟨hsl, hgl | hot | hot⟩
  · simp [storedTag, htag]
  · simp [storedTag, hsl, hgl]
  · simp [storedTag, Cap.isBackwardSentry, hsl, hot]
  · simp [storedTag, Cap.isBackwardSentry, hsl, hot]

/-- Every byte that `Grants` finds mapped, `allMapped` does. -/
theorem Grants.allMapped {r : Reg} {q : Perm} {addr n : Nat} (h : Grants s r q addr n) :
    allMapped s.platform addr n = true := by
  obtain ⟨-, -, -, -, -, hmap⟩ := h
  rw [Machine.allMapped, List.all_eq_true]
  intro k hk
  exact Option.isSome_iff_ne_none.2 (hmap k (List.mem_range.1 hk))

theorem Grants.inBounds {r : Reg} {q : Perm} {addr n : Nat} (h : Grants s r q addr n) :
    (s.reg r).inBounds addr n = true := by
  obtain ⟨-, -, -, hbase, htop, -⟩ := h
  exact decide_eq_true ⟨hbase, htop⟩

/-- A granted, aligned capability store passes the check (R300), given MC for a tagged value. -/
theorem checkAccess_storeCap {r d : Reg} {imm : Word}
    (hg : Grants s r .sd (s.dataAddr r imm).toNat 8) (halign : (s.dataAddr r imm).toNat % 8 = 0)
    (hmc : (s.reg d).tag = true → (s.reg r).has .mc = true) :
    s.checkAccess (.storeCap (s.reg d).tag) r imm 8 = none := by
  have ⟨htag, hsealed, hsd, _⟩ := hg
  exact checkAccess_eq_none htag hsealed nofun (fun _ => hsd) hmc hg.inBounds
    (by simp [misaligned, AccessKind.isCap, halign]) hg.allMapped

/-- A capability store that passes the check (R311). -/
theorem opStoreCap_of_check {len : Word} {cs2 cs1 : Reg} {imm : Word}
    (h : s.checkAccess (.storeCap (s.reg cs2).tag) cs1 imm 8 = none) :
    opStoreCap len cs2 cs1 imm s =
      .next ((s.memWriteCap (s.dataAddr cs1 imm) (storedTag (s.reg cs1) (s.reg cs2))
        (s.reg cs2)).advance len) := by
  rw [opStoreCap, h]

end Effects

/-- Settles O29: an instruction without an access leaves the tags, a load too, an integer store only
clears tags, and CSC writes `storedTag` at its granule. -/
theorem onlyCscSetsATag : Obligations.OnlyCscSetsATag := by
  refine ⟨fun s t i g h hset hclear => ?_, ?_⟩
  · have hchanged : t.tags ≠ s.tags := fun he => by simp [he, hclear] at hset
    cases ha : i.access with
    | none => exact absurd (exec_tags_mark_of_noAccess ha h).1 hchanged
    | some m =>
      rcases access_next ha h with ⟨e, rfl⟩ | ⟨-, v, rfl⟩ | ⟨-, -, rfl⟩ | ⟨hl, hc, rfl⟩
      · exact absurd rfl hchanged
      · exact absurd rfl hchanged
      · exact absurd ((memWrite_sets_no_tag hset).symm.trans hclear) (by decide)
      · obtain ⟨hgranule, htag⟩ := memWriteCap_sets_tag (v := s.reg m.data) hset hclear
        exact ⟨m, rfl, hl, hc, tag_of_storedTag htag, hgranule⟩
  · intro s i m ha hl hc a v htagged hg halign hmc hv
    refine ⟨_, (exec_storeCap s ha hl hc).trans
      (opStoreCap_of_check (checkAccess_storeCap hg halign hmc)), ?_⟩
    rw [State.advance_tags, State.memWriteCap_tags, storeTag_read, if_pos ⟨rfl, htagged⟩,
      storedTag_eq_false hv, Bool.false_and]

/-! ## The stack high water mark (R145) -/

section Mark
variable {s t : State} {i : Instr} {m : Access}

/-- Clearing the low four bits rounds an address down to 16. -/
theorem and_roundDown16 (a : Word) : a &&& 0xFFFFFFF0 = BitVec.ofNat 32 (a.toNat / 16 * 16) :=
  and_clearLow a 4

theorem markAfter_toNat (s : State) (addr : Word) :
    (markAfter s addr).toNat =
      if s.shwmbWord.toNat ≤ addr.toNat ∧ addr.toNat < s.shwmWord.toNat then addr.toNat / 16 * 16
      else s.shwmWord.toNat := by
  have hlt : addr.toNat / 16 * 16 < 2 ^ 32 := by omega
  rw [markAfter, apply_ite BitVec.toNat, and_roundDown16, BitVec.toNat_ofNat, Nat.mod_eq_of_lt hlt]

/-- `SHWMupdate` moves the mark as `markAfter` says. -/
theorem shwmUpdate_shwmWord (s : State) (addr : Word) :
    (s.shwmUpdate addr).shwmWord = markAfter s addr := by
  have hround : addr.extractLsb' 4 28 ++ 0#4 = addr &&& 0xFFFFFFF0 := by
    rw [and_roundDown16]
    apply BitVec.eq_of_toNat_eq
    rw [toNat_append_zeros, BitVec.extractLsb'_toNat, BitVec.toNat_ofNat, Nat.shiftRight_eq_div_pow]
    omega
  rw [State.shwmWord, State.shwmUpdate_mshwm, markAfter]
  simp only [BitVec.le_def, BitVec.lt_def]
  split
  · exact hround
  · rfl

/-- The mark never falls below its base. -/
theorem shwmbWord_le_markAfter {addr : Word} (h : s.shwmbWord.toNat ≤ s.shwmWord.toNat) :
    s.shwmbWord.toNat ≤ (markAfter s addr).toNat := by
  have hbase : s.shwmbWord.toNat = s.mshwmb.toNat * 16 := toNat_append_zeros s.mshwmb
  rw [markAfter_toNat]
  split <;> omega

/-- The mark after a load or store: as it was after a load or a trap, and `markAfter` after a store that
performs its write. -/
theorem access_mark (ha : i.access = some m) (h : exec i s = .next t) :
    t.shwmbWord = s.shwmbWord ∧
      ((m.isLoad = true ∨ ∃ e, t = s.trap e) ∧ t.shwmWord = s.shwmWord ∨
        m.isLoad = false ∧ t.shwmWord = markAfter s (s.accessAddr m)) := by
  rcases access_next ha h with ⟨e, rfl⟩ | ⟨hl, v, rfl⟩ | ⟨hl, -, rfl⟩ | ⟨hl, -, rfl⟩
  · exact ⟨rfl, .inl ⟨.inr ⟨e, rfl⟩, rfl⟩⟩
  · exact ⟨rfl, .inl ⟨.inl hl, rfl⟩⟩
  · exact ⟨rfl, .inr ⟨hl, shwmUpdate_shwmWord _ _⟩⟩
  · exact ⟨rfl, .inr ⟨hl, shwmUpdate_shwmWord _ _⟩⟩

end Mark

/-- Settles O30: `exec_tags_mark_of_noAccess` for the instructions that are no access, and `access_mark`
with the arithmetic of `markAfter` for the others. -/
theorem stackHighWaterMark : Obligations.StackHighWaterMark := by
  intro s t i h
  refine ⟨fun ha hmoved => ?_, fun m ha => ?_⟩
  · obtain ⟨-, hmark | hwrite⟩ := exec_tags_mark_of_noAccess ha h
    · exact absurd (congrArg (· ++ 0#4) hmark) hmoved
    · exact hwrite
  · obtain ⟨hbase, ⟨hstays, hsame⟩ | ⟨hl, hmark⟩⟩ := access_mark ha h
    · refine ⟨fun _ => hsame, fun hl htrap => ?_, fun hle => by rwa [hbase, hsame]⟩
      exact absurd hstays (by simp [hl, htrap])
    · refine ⟨fun hstays => ?_, fun _ _ => ?_, fun hle => ?_⟩
      · rcases hstays with hload | ⟨e, rfl⟩
        · exact absurd (hl.symm.trans hload) (by decide)
        · rfl
      · rw [hmark, markAfter_toNat]
      · rw [hbase, hmark]
        exact shwmbWord_le_markAfter hle

end Sys2Proof.Machine
end

section
/-! SUPPORT. The control transfer rules of 41_control_transfer.md: which targets a jump through a
capability accepts, and what it answers for one it refuses. -/

namespace Sys2Proof.Machine

section JumpTarget
variable {s : State} {cd cs1 : Reg} {imm : Word}

/-! ### The rows of R287: a call, a return through `c1`, and every other jump -/

theorem validOtypes_call : validOtypes cs1 .c1 = [0, 1, 2, 3] := rfl

theorem validOtypes_return : validOtypes .c1 .c0 = [4, 5] := rfl

theorem validOtypes_other (hcall : cd ≠ .c1) (hreturn : ¬(cs1 = .c1 ∧ cd = .c0)) :
    validOtypes cs1 cd = [0, 1] := by
  rw [validOtypes, if_neg hcall, if_neg (hreturn ∘ And.symm)]

/-- The table by the numbers of the otypes. The return is asked for before the call here and after it
in `validOtypes`, which is the same, as no jump is both. -/
theorem mem_validOtypes_iff {ot : BitVec 4} :
    ot ∈ validOtypes cs1 cd ↔
      if cs1 = .c1 ∧ cd = .c0 then ot.toNat = 4 ∨ ot.toNat = 5
      else if cd = .c1 then ot.toNat ≤ 3
      else ot.toNat ≤ 1 := by
  split_ifs with hreturn hcall
  · obtain ⟨rfl, rfl⟩ := hreturn
    simp only [validOtypes_return, List.mem_cons, List.not_mem_nil, or_false]
    bv_omega
  · subst hcall
    simp only [validOtypes_call, List.mem_cons, List.not_mem_nil, or_false]
    bv_omega
  · simp only [validOtypes_other hcall hreturn, List.mem_cons, List.not_mem_nil, or_false]
    bv_omega

/-! ### The check and the jump (R286) -/

/-- The converse of `checkJump_none`: such a target passes the check (R286). -/
theorem checkJump_eq_none (htag : (s.reg cs1).tag = true)
    (hotype : (s.reg cs1).archotype ∈ validOtypes cs1 cd)
    (himm : (s.reg cs1).archotype = 0 ∨ imm = 0) (hexec : (s.reg cs1).isExec = true) :
    s.checkJump cd cs1 imm = none := by
  simpa [State.checkJump, htag, hotype, hexec] using or_iff_not_imp_left.mp himm

/-- A tagged target of an otype the table does not give is a seal violation, whatever the offset and
the format (R286 step 3). -/
theorem checkJump_eq_seal (htag : (s.reg cs1).tag = true)
    (hotype : (s.reg cs1).archotype ∉ validOtypes cs1 cd) :
    s.checkJump cd cs1 imm = some (.cheri .seal (.reg cs1)) := by
  simp [State.checkJump, htag, hotype]

theorem opCjalr_of_check_none {len : Word} (h : s.checkJump cd cs1 imm = none) :
    opCjalr len cd cs1 imm s = .next (s.jumpTo len cd cs1 imm) := by
  rw [opCjalr, h]

theorem opCjalr_of_check_some {len : Word} {e : Exc} (h : s.checkJump cd cs1 imm = some e) :
    opCjalr len cd cs1 imm s = raise e s := by
  rw [opCjalr, h]

theorem exec_cjalr (imm : BitVec 12) :
    exec (.cjalr cd cs1 imm) s = opCjalr 4 cd cs1 (imm.signExtend 32) s := rfl

end JumpTarget

/-- Settles O19: `valid` is membership in `validOtypes`; with offset 0 the check then turns on the otype
alone. -/
theorem sentryTable : Obligations.SentryTable := by
  intro s cd cs1 htag hexec ot valid
  have hvalid : (s.reg cs1).archotype ∈ validOtypes cs1 cd ↔ valid := mem_validOtypes_iff
  have himm : (0 : BitVec 12).signExtend 32 = 0#32 := by decide
  rw [← hvalid, exec_cjalr, himm]
  refine ⟨fun hmem => ?_, fun hmem => ?_⟩
  · refine ⟨_, opCjalr_of_check_none (checkJump_eq_none htag hmem (.inr rfl) hexec), rfl, ?_⟩
    rw [State.jumpTo_pc, BitVec.add_zero]
  · rw [opCjalr_of_check_some (checkJump_eq_seal htag hmem)]
    exact raise_reg_trapsCheri s

end Sys2Proof.Machine
end

section
/-! SUPPORT. The exception rules of 60_exceptions.md: what a step does when PCC is untagged, and the loop
of tag violations behind an untagged MTCC. -/

namespace Sys2Proof.Machine

/-! ## A step with an untagged PCC (R280 step 1, R484) -/

section UntaggedPcc
variable {s : State}

@[simp] theorem State.tick_interrupt (s : State) : s.tick.interrupt = s.interrupt := rfl

/-- The tag of PCC is the first thing a fetch checks (R280). -/
theorem fetch_of_untagged (htag : s.pcc.tag = false) : s.fetch = .error (.cheri .tag .pcc) := by
  have hcheck : s.checkFetch = some (.cheri .tag .pcc) := by simp [State.checkFetch, htag]
  simp [State.fetch, hcheck]

theorem act_of_fetch_error {e : Exc} (hirq : s.interrupt = none) (hfetch : s.fetch = .error e) :
    s.act = raise e s := by
  simp [State.act, hirq, hfetch]

/-- With no interrupt to take, each step with an untagged PCC is one tag violation (R484). -/
theorem step_of_untagged (hirq : s.interrupt = none) (htag : s.pcc.tag = false) :
    step s = raise (.cheri .tag .pcc) s.tick :=
  act_of_fetch_error (s.tick_interrupt.trans hirq) (fetch_of_untagged htag)

/-- Right after an untagged capability was installed, PCCval(pc) of R38 is that capability bit for bit. -/
theorem pccVal_of_untagged (htag : s.pcc.tag = false) (hpc : s.pc = s.pcc.a) :
    s.pccVal s.pc = s.pcc := by
  rw [State.pccVal, hpc, htag, Bool.false_and, ← htag]

theorem step_traps_of_untagged (hirq : s.interrupt = none) (htag : s.pcc.tag = false)
    (hpc : s.pc = s.pcc.a) : Traps (step s) s.tick s.pcc 0x1C 0x402 := by
  have htrap := raise_pcc_trapsCheri (cause := .tag) (by decide) s.tick
  have hepcc : s.tick.pccVal s.tick.pc = s.pcc := pccVal_of_untagged (s := s.tick) htag hpc
  rw [TrapsCheri, hepcc] at htrap
  rw [step_of_untagged hirq htag]
  exact htrap

end UntaggedPcc

/-! ## The loop behind an untagged MTCC (R484) -/

/-- `s` has entered a trap through an untagged MTCC. -/
structure State.InTagLoop (s : State) : Prop where
  untagged : s.mtcc.tag = false
  pcc : s.pcc = s.mtcc
  pc : s.pc = s.mtcc.a
  mie : s.mstatusMie = false

/-- `s` after `n` tag violations of the loop, `n` not 0. -/
def State.afterTagViolations (s : State) (n : Nat) : State :=
  { s with
    mepcc := s.mtcc
    mcause := 0x1C
    mtval := 0x402
    mstatusMpie := false
    draws := s.draws + n }

section TagLoop
variable {s : State}

theorem State.InTagLoop.afterTagViolations (h : s.InTagLoop) (n : Nat) :
    (s.afterTagViolations n).InTagLoop :=
  ⟨h.untagged, h.pcc, h.pc, h.mie⟩

/-- Later violations overwrite what the earlier ones left, so that only their number adds up. -/
theorem State.afterTagViolations_add (s : State) (m n : Nat) :
    (s.afterTagViolations m).afterTagViolations n = s.afterTagViolations (m + n) := by
  simp [State.afterTagViolations, Nat.add_assoc]

theorem State.InTagLoop.step_eq (h : s.InTagLoop) : step s = .next (s.afterTagViolations 1) := by
  have htag : s.pcc.tag = false := h.pcc ▸ h.untagged
  have hpc : s.pc = s.pcc.a := h.pcc ▸ h.pc
  have hepcc : s.tick.exceptionPcc (.cheri .tag .pcc) = s.mtcc := by
    rw [exceptionPcc_eq (by decide), pccVal_of_untagged (s := s.tick) htag hpc, State.tick_pcc, h.pcc]
  have htrap : s.tick.trap (.cheri .tag .pcc) = s.afterTagViolations 1 := by
    have hvalue : (Exc.cheri .tag .pcc).value s.tick.platform = 0x402 := rfl
    rw [State.trap, hepcc, hvalue]
    simp [State.enterTrap, State.afterTagViolations, State.tick, Exc.code, h.pcc, h.pc, h.mie]
  rw [step_of_untagged (interrupt_of_mie_clear h.mie) htag, raise, htrap]

theorem run_succ_of_step {M : Host.Core} {s t : M.State} (k : Nat) (h : M.step s = .next t) :
    M.run (k + 1) s = M.run k t := by
  rw [Host.Core.run, h]

theorem State.InTagLoop.run_eq (h : s.InTagLoop) (n : Nat) :
    Host.Core.run core (n + 1) s = .next (s.afterTagViolations (n + 1)) := by
  induction n generalizing s with
  | zero => exact run_succ_of_step (M := core) 0 h.step_eq
  | succ n ih =>
    rw [run_succ_of_step (M := core) (n + 1) h.step_eq, ih (h.afterTagViolations 1),
      State.afterTagViolations_add, Nat.add_comm 1]

end TagLoop

/-! ## Untagged trap capabilities -/

theorem exec_mret_of_sr {s : State} (hsr : s.hasSr = true) : exec .mret s = .next s.trapReturn :=
  if_pos hsr

/-- Settles O8: the loop by induction on the steps; after MRET one step with PCC = MEPCC. -/
theorem untaggedTrapVectorLoops : Obligations.UntaggedTrapVectorLoops := by
  refine ⟨fun s huntagged hpcc hpc hmie n => ?_, fun s t hsr htag hmret hirq => ?_⟩
  · have hloop : s.InTagLoop := ⟨huntagged, hpcc, hpc, hmie⟩
    exact hloop.run_eq n
  · obtain rfl : t = s.trapReturn := next_inj ((exec_mret_of_sr hsr).symm.trans hmret)
    exact step_traps_of_untagged hirq htag rfl

end Sys2Proof.Machine
end

section
/-! SUPPORT. The encoding rules of 30_encoding.md and 46_compressed.md: the decoder reads back every
encoding, and whatever it reads is the one encoding of a well-formed instruction. -/

namespace Sys2Proof

/-! ## Sequences of checks -/

section Except
variable {α β : Type} {e : Except DecodeError α} {f : α → Except DecodeError β}

@[simp] theorem pure_eq_ok (a : α) : (pure a : Except DecodeError α) = .ok a := rfl

@[simp] theorem ok_bind (a : α) : (.ok a >>= f) = f a := rfl

/-- A sequence succeeds when each of its parts does. -/
theorem bind_eq_ok {b : β} : e >>= f = .ok b ↔ ∃ a, e = .ok a ∧ f a = .ok b := by
  cases e with
  | error => exact ⟨nofun, nofun⟩
  | ok a => simp

/-- One branch of a table of decodings, and the rest of the table. -/
theorem of_ite_ok {c : Prop} [Decidable c] {e₁ e₂ : Except DecodeError α} {a : α} {p : Prop}
    (h : (if c then e₁ else e₂) = .ok a) (hthen : c → e₁ = .ok a → p) (helse : ¬c → e₂ = .ok a → p) :
    p := by
  split at h
  · exact hthen ‹c› h
  · exact helse ‹¬c› h

end Except

/-! ## Decoding an encoded word, by format -/

section Formats
variable (rd r1 r2 : Reg) (f7 : BitVec 7) (f3 : BitVec 3) (op : BitVec 7)

@[simp] theorem decodeR_encR (mk : Reg → Reg → Reg → Instr) :
    decodeR mk (encR f7 r2.bits r1.bits f3 rd.bits op) = .ok (mk rd r1 r2) := by
  simp [decodeR]

@[simp] theorem decodeUnary_encR (mk : Reg → Reg → Instr) (code : BitVec 5) :
    decodeUnary mk (encR f7 code r1.bits f3 rd.bits op) = .ok (mk rd r1) := by
  simp [decodeUnary]

@[simp] theorem decodeShift_encR (mk : Reg → Reg → BitVec 5 → Instr) (n : BitVec 5) :
    decodeShift mk (encR f7 n r1.bits f3 rd.bits op) = .ok (mk rd r1 n) := by
  simp [decodeShift]

@[simp] theorem decodeScr_encR (n : Scr) :
    decodeScr (encR f7 n.bits r1.bits f3 rd.bits op) = .ok (.cspecialrw rd n r1) := by
  simp [decodeScr]

@[simp] theorem decodeI_encI (mk : Reg → Reg → BitVec 12 → Instr) (imm : BitVec 12) :
    decodeI mk (encI imm r1.bits f3 rd.bits op) = .ok (mk rd r1 imm) := by
  simp [decodeI]

@[simp] theorem decodeCsr_encI (mk : Reg → BitVec 12 → Reg → Instr) (csr : BitVec 12) :
    decodeCsr mk (encI csr r1.bits f3 rd.bits op) = .ok (mk rd csr r1) := by
  simp [decodeCsr]

@[simp] theorem decodeCsrImm_encI (mk : Reg → BitVec 12 → BitVec 5 → Instr) (csr : BitVec 12)
    (u : BitVec 5) : decodeCsrImm mk (encI csr u f3 rd.bits op) = .ok (mk rd csr u) := by
  simp [decodeCsrImm]

@[simp] theorem decodeS_encS (mk : Reg → Reg → BitVec 12 → Instr) (imm : BitVec 12) :
    decodeS mk (encS imm r2.bits r1.bits f3 op) = .ok (mk r2 r1 imm) := by
  simp [decodeS]

@[simp] theorem decodeB_encB (mk : Reg → Reg → BitVec 12 → Instr) (off : BitVec 12) :
    decodeB mk (encB off r2.bits r1.bits f3 op) = .ok (mk r1 r2 off) := by
  simp [decodeB]

@[simp] theorem decodeU_encU (mk : Reg → BitVec 20 → Instr) (imm : BitVec 20) :
    decodeU mk (encU imm rd.bits op) = .ok (mk rd imm) := by
  simp [decodeU]

@[simp] theorem decodeJ_encJ (mk : Reg → BitVec 20 → Instr) (off : BitVec 20) :
    decodeJ mk (encJ off rd.bits op) = .ok (mk rd off) := by
  simp [decodeJ]

end Formats

/-- No CSR instruction is one of the four fixed words of opcode 0x73, whose funct3 is 0. -/
theorem encI_ne_fixedWords {imm : BitVec 12} {r1 rd : BitVec 5} {f3 : BitVec 3} {op : BitVec 7}
    (h : f3 ≠ 0#3) :
    encI imm r1 f3 rd op ≠ 0x00000073#32 ∧ encI imm r1 f3 rd op ≠ 0x00100073#32 ∧
      encI imm r1 f3 rd op ≠ 0x10500073#32 ∧ encI imm r1 f3 rd op ≠ 0x30200073#32 := by
  have hne {w : Word} (hw : fFunct3 w = 0#3) : encI imm r1 f3 rd op ≠ w := by
    rintro rfl
    exact h ((fFunct3_encI ..).symm.trans hw)
  exact ⟨hne (by decide), hne (by decide), hne (by decide), hne (by decide)⟩

/-- Two registers with one number are one. -/
theorem bits_inj {r q : Reg} : r.bits = q.bits ↔ r = q := by
  refine ⟨fun h => ?_, congrArg _⟩
  have hreg := congrArg reg h
  rwa [reg_bits, reg_bits, Except.ok.injEq] at hreg

/-! ## The decoder on encodings -/

/-- The bits of every 32-bit instruction decode to it. -/
theorem decodeWord_of_encode {i : Instr} {w : Word} (h : encode i = .word w) :
    decodeWord w = .ok i := by
  cases i with
  | lui | auipcc | auicgp => cases h; simp [decodeWord]
  | cjal => cases h; simp [decodeWord]
  | addi | slti | sltiu | xori | ori | andi | slli | srli | srai =>
    cases h; simp [decodeWord, decodeOpImm]
  | add | sll | slt | sltu | xor | srl | or | and =>
    cases h; simp [decodeWord, decodeOp, decodeOp00]
  | mul | mulh | mulhsu | mulhu | div | divu | rem | remu =>
    cases h; simp [decodeWord, decodeOp, decodeOp01]
  | sub | sra => cases h; simp [decodeWord, decodeOp, decodeOp20]
  | cjalr => cases h; simp [decodeWord]
  | beq | bne | blt | bge | bltu | bgeu => cases h; simp [decodeWord, decodeBranch]
  | clb | clh | clw | clbu | clhu | clc => cases h; simp [decodeWord, decodeLoad]
  | csb | csh | csw | csc => cases h; simp [decodeWord, decodeStore]
  | fence | fencei => cases h; simp [decodeWord, decodeMiscMem]
  | ecall | ebreak | wfi | mret => cases h; rfl
  | csrrw | csrrs | csrrc | csrrwi | csrrsi | csrrci =>
    cases h
    simp [decodeWord, decodeSystem, encI_ne_fixedWords]
  | cincaddrimm | csetboundsimm => cases h; simp [decodeWord, decodeCap]
  | cspecialrw | cincaddr | csetaddr | csetbounds | csetboundsexact | candperm | cseal | cunseal
  | csethigh | csub | ctestsubset | csetequalexact =>
    cases h; simp [decodeWord, decodeCap, decodeCapR]
  | cmove | ccleartag | cgetperm | cgettype | cgetbase | cgetlen | cgettop | cgettag | cgetaddr
  | cgethigh | crrl | cram => cases h; simp [decodeWord, decodeCap, decodeCapR, decodeCapUnary]
  | _ => cases h

/-- The parcel of every well-formed 16-bit instruction decodes to it. -/
theorem decodeParcel_of_encode {i : Instr} {h : Parcel} (he : encode i = .parcel h)
    (hwf : i.wellFormed = true) : decodeParcel h = .ok i := by
  cases i with
  | rvcAddi4spn => cases he; simp [decodeParcel, decodeQ0, unlessReserved, hwf]
  | rvcLw | rvcLc | rvcSw | rvcSc => cases he; simp [decodeParcel, decodeQ0]
  | rvcNop | rvcJal | rvcLi | rvcJ | rvcBeqz | rvcBnez =>
    cases he; simp [decodeParcel, decodeQ1]
  | rvcAddi => cases he; simp_all [Instr.wellFormed, decodeParcel, decodeQ1, bits_eq_zero]
  | rvcAddi16sp => cases he; simp [decodeParcel, decodeQ1, unlessReserved, hwf]
  | rvcLui rd imm =>
    cases he
    have hrd : rd.bits ≠ Reg.c2.bits := fun he => by
      simp [Instr.wellFormed, bits_inj.1 he] at hwf
    simp [decodeParcel, decodeQ1, unlessReserved, hwf, show rd.bits ≠ 2#5 from hrd]
  | rvcSrli | rvcSrai | rvcAndi | rvcSub | rvcXor | rvcOr | rvcAnd =>
    cases he; simp [decodeParcel, decodeQ1, decodeQ1Alu]
  | rvcSlli => cases he; simp [decodeParcel, decodeQ2]
  | rvcLwsp | rvcLcsp => cases he; simp [decodeParcel, decodeQ2, unlessReserved, hwf]
  | rvcSwsp | rvcScsp => cases he; simp [decodeParcel, decodeQ2]
  | rvcJr => cases he; simp [decodeParcel, decodeQ2, decodeQ2Jump, unlessReserved, hwf]
  | rvcJalr | rvcMv | rvcAdd =>
    cases he
    simp_all [Instr.wellFormed, decodeParcel, decodeQ2, decodeQ2Jump, bits_eq_zero]
  | rvcEbreak => cases he; rfl
  | _ => cases he

/-! ## What a word that decodes encodes, by format -/

/-- `i` is a well-formed instruction whose one encoding is the word `w`. -/
def Instr.isWord (i : Instr) (w : Word) : Prop := i.wellFormed = true ∧ encode i = .word w

section Formats
variable {w : Word} {i : Instr} {f7 : BitVec 7} {f3 : BitVec 3} {op : BitVec 7}

theorem decodeR_isWord {mk : Reg → Reg → Reg → Instr} (h : decodeR mk w = .ok i)
    (hmk : ∀ rd r1 r2, (mk rd r1 r2).isWord (encR f7 r2.bits r1.bits f3 rd.bits op))
    (h7 : fFunct7 w = f7) (h3 : fFunct3 w = f3) (hop : fOpcode w = op) : i.isWord w := by
  simp only [decodeR, bind_eq_ok, pure_eq_ok, Except.ok.injEq] at h
  obtain ⟨rd, hd, r1, h1, r2, h2, rfl⟩ := h
  have hi := hmk rd r1 r2
  rwa [bits_of_reg hd, bits_of_reg h1, bits_of_reg h2, ← h7, ← h3, ← hop, encR_fields] at hi

theorem decodeUnary_isWord {mk : Reg → Reg → Instr} {code : BitVec 5}
    (h : decodeUnary mk w = .ok i)
    (hmk : ∀ rd r1, (mk rd r1).isWord (encR f7 code r1.bits f3 rd.bits op))
    (h7 : fFunct7 w = f7) (h3 : fFunct3 w = f3) (hop : fOpcode w = op) (hcode : fRs2 w = code) :
    i.isWord w := by
  simp only [decodeUnary, bind_eq_ok, pure_eq_ok, Except.ok.injEq] at h
  obtain ⟨rd, hd, r1, h1, rfl⟩ := h
  have hi := hmk rd r1
  rwa [bits_of_reg hd, bits_of_reg h1, ← hcode, ← h7, ← h3, ← hop, encR_fields] at hi

theorem decodeShift_isWord {mk : Reg → Reg → BitVec 5 → Instr} (h : decodeShift mk w = .ok i)
    (hmk : ∀ rd r1 n, (mk rd r1 n).isWord (encR f7 n r1.bits f3 rd.bits op))
    (h7 : fFunct7 w = f7) (h3 : fFunct3 w = f3) (hop : fOpcode w = op) : i.isWord w := by
  simp only [decodeShift, bind_eq_ok, pure_eq_ok, Except.ok.injEq] at h
  obtain ⟨rd, hd, r1, h1, rfl⟩ := h
  have hi := hmk rd r1 (fRs2 w)
  rwa [bits_of_reg hd, bits_of_reg h1, ← h7, ← h3, ← hop, encR_fields] at hi

theorem decodeScr_isWord (h : decodeScr w = .ok i) (h7 : fFunct7 w = 0x01#7)
    (h3 : fFunct3 w = 0#3) (hop : fOpcode w = 0x5b#7) : i.isWord w := by
  simp only [decodeScr, bind_eq_ok, pure_eq_ok, Except.ok.injEq] at h
  obtain ⟨cd, hd, r1, h1, n, hn, rfl⟩ := h
  refine ⟨rfl, congrArg Encoded.word ?_⟩
  rw [bits_of_reg hd, bits_of_reg h1, bits_of_scr hn]
  have hw := encR_fields w
  rwa [h7, h3, hop] at hw

theorem decodeI_isWord {mk : Reg → Reg → BitVec 12 → Instr} (h : decodeI mk w = .ok i)
    (hmk : ∀ rd r1 imm, (mk rd r1 imm).isWord (encI imm r1.bits f3 rd.bits op))
    (h3 : fFunct3 w = f3) (hop : fOpcode w = op) : i.isWord w := by
  simp only [decodeI, bind_eq_ok, pure_eq_ok, Except.ok.injEq] at h
  obtain ⟨rd, hd, r1, h1, rfl⟩ := h
  have hi := hmk rd r1 (fImmI w)
  rwa [bits_of_reg hd, bits_of_reg h1, ← h3, ← hop, encI_fields] at hi

theorem decodeCsr_isWord {mk : Reg → BitVec 12 → Reg → Instr} (h : decodeCsr mk w = .ok i)
    (hmk : ∀ rd csr r1, (mk rd csr r1).isWord (encI csr r1.bits f3 rd.bits op))
    (h3 : fFunct3 w = f3) (hop : fOpcode w = op) : i.isWord w :=
  decodeI_isWord (mk := fun rd r1 csr => mk rd csr r1) h (fun rd r1 csr => hmk rd csr r1) h3 hop

theorem decodeCsrImm_isWord {mk : Reg → BitVec 12 → BitVec 5 → Instr}
    (h : decodeCsrImm mk w = .ok i)
    (hmk : ∀ rd csr u, (mk rd csr u).isWord (encI csr u f3 rd.bits op))
    (h3 : fFunct3 w = f3) (hop : fOpcode w = op) : i.isWord w := by
  simp only [decodeCsrImm, bind_eq_ok, pure_eq_ok, Except.ok.injEq] at h
  obtain ⟨rd, hd, rfl⟩ := h
  have hi := hmk rd (fImmI w) (fRs1 w)
  rwa [bits_of_reg hd, ← h3, ← hop, encI_fields] at hi

theorem decodeS_isWord {mk : Reg → Reg → BitVec 12 → Instr} (h : decodeS mk w = .ok i)
    (hmk : ∀ r2 r1 imm, (mk r2 r1 imm).isWord (encS imm r2.bits r1.bits f3 op))
    (h3 : fFunct3 w = f3) (hop : fOpcode w = op) : i.isWord w := by
  simp only [decodeS, bind_eq_ok, pure_eq_ok, Except.ok.injEq] at h
  obtain ⟨r2, h2, r1, h1, rfl⟩ := h
  have hi := hmk r2 r1 (fImmS w)
  rwa [bits_of_reg h1, bits_of_reg h2, ← h3, ← hop, encS_fields] at hi

theorem decodeB_isWord {mk : Reg → Reg → BitVec 12 → Instr} (h : decodeB mk w = .ok i)
    (hmk : ∀ r1 r2 off, (mk r1 r2 off).isWord (encB off r2.bits r1.bits f3 op))
    (h3 : fFunct3 w = f3) (hop : fOpcode w = op) : i.isWord w := by
  simp only [decodeB, bind_eq_ok, pure_eq_ok, Except.ok.injEq] at h
  obtain ⟨r1, h1, r2, h2, rfl⟩ := h
  have hi := hmk r1 r2 (fImmB w)
  rwa [bits_of_reg h1, bits_of_reg h2, ← h3, ← hop, encB_fields] at hi

theorem decodeU_isWord {mk : Reg → BitVec 20 → Instr} (h : decodeU mk w = .ok i)
    (hmk : ∀ rd imm, (mk rd imm).isWord (encU imm rd.bits op)) (hop : fOpcode w = op) :
    i.isWord w := by
  simp only [decodeU, bind_eq_ok, pure_eq_ok, Except.ok.injEq] at h
  obtain ⟨rd, hd, rfl⟩ := h
  have hi := hmk rd (fImmU w)
  rwa [bits_of_reg hd, ← hop, encU_fields] at hi

theorem decodeJ_isWord {mk : Reg → BitVec 20 → Instr} (h : decodeJ mk w = .ok i)
    (hmk : ∀ rd off, (mk rd off).isWord (encJ off rd.bits op)) (hop : fOpcode w = op) :
    i.isWord w := by
  simp only [decodeJ, bind_eq_ok, pure_eq_ok, Except.ok.injEq] at h
  obtain ⟨rd, hd, rfl⟩ := h
  have hi := hmk rd (fImmJ w)
  rwa [bits_of_reg hd, ← hop, encJ_fields] at hi

end Formats

/-! ## What a word that decodes encodes, by opcode -/

section Opcodes
variable {w : Word} {i : Instr}

theorem decodeLoad_isWord (h : decodeLoad w = .ok i) (hop : fOpcode w = 0x03#7) : i.isWord w := by
  unfold decodeLoad at h
  iterate 6
    refine of_ite_ok h (fun h3 h => decodeI_isWord h (fun _ _ _ => ⟨rfl, rfl⟩) h3 hop) fun _ h => ?_
  cases h

theorem decodeMiscMem_isWord (h : decodeMiscMem w = .ok i) (hop : fOpcode w = 0x0f#7) :
    i.isWord w := by
  refine of_ite_ok h (fun h3 h => ?_) fun _ h => of_ite_ok h (fun h3 h => ?_) nofun
  · cases h
    refine ⟨rfl, congrArg Encoded.word ?_⟩
    rw [fence_fields]
    have hw := encI_fields w
    rwa [h3, hop] at hw
  · cases h
    have hw := encI_fields w
    rw [h3, hop] at hw
    exact ⟨rfl, congrArg Encoded.word hw⟩

theorem decodeOpImm_isWord (h : decodeOpImm w = .ok i) (hop : fOpcode w = 0x13#7) :
    i.isWord w := by
  unfold decodeOpImm at h
  iterate 6
    refine of_ite_ok h (fun h3 h => decodeI_isWord h (fun _ _ _ => ⟨rfl, rfl⟩) h3 hop) fun _ h => ?_
  iterate 3
    refine of_ite_ok h (fun hf h =>
      decodeShift_isWord h (fun _ _ _ => ⟨rfl, rfl⟩) hf.2 hf.1 hop) fun _ h => ?_
  cases h

theorem decodeStore_isWord (h : decodeStore w = .ok i) (hop : fOpcode w = 0x23#7) :
    i.isWord w := by
  unfold decodeStore at h
  iterate 4
    refine of_ite_ok h (fun h3 h => decodeS_isWord h (fun _ _ _ => ⟨rfl, rfl⟩) h3 hop) fun _ h => ?_
  cases h

theorem decodeOp_isWord (h : decodeOp w = .ok i) (hop : fOpcode w = 0x33#7) : i.isWord w := by
  unfold decodeOp decodeOp00 decodeOp01 decodeOp20 at h
  refine of_ite_ok h (fun h7 h => ?_) fun _ h => of_ite_ok h (fun h7 h => ?_) fun _ h =>
    of_ite_ok h (fun h7 h => ?_) nofun
  iterate 2
    focus
      iterate 8
        refine of_ite_ok h (fun h3 h =>
          decodeR_isWord h (fun _ _ _ => ⟨rfl, rfl⟩) h7 h3 hop) fun _ h => ?_
      cases h
  iterate 2
    refine of_ite_ok h (fun h3 h => decodeR_isWord h (fun _ _ _ => ⟨rfl, rfl⟩) h7 h3 hop) fun _ h => ?_
  cases h

theorem decodeCapUnary_isWord (h : decodeCapUnary w = .ok i) (h7 : fFunct7 w = 0x7f#7)
    (h3 : fFunct3 w = 0#3) (hop : fOpcode w = 0x5b#7) : i.isWord w := by
  unfold decodeCapUnary at h
  iterate 12
    refine of_ite_ok h (fun hcode h =>
      decodeUnary_isWord h (fun _ _ => ⟨rfl, rfl⟩) h7 h3 hop hcode) fun _ h => ?_
  cases h

theorem decodeCapR_isWord (h : decodeCapR w = .ok i) (h3 : fFunct3 w = 0#3)
    (hop : fOpcode w = 0x5b#7) : i.isWord w := by
  refine of_ite_ok h (fun h7 h => decodeScr_isWord h h7 h3 hop) fun _ h => ?_
  iterate 11
    refine of_ite_ok h (fun h7 h => decodeR_isWord h (fun _ _ _ => ⟨rfl, rfl⟩) h7 h3 hop) fun _ h => ?_
  exact of_ite_ok h (fun h7 h => decodeCapUnary_isWord h h7 h3 hop) nofun

theorem decodeCap_isWord (h : decodeCap w = .ok i) (hop : fOpcode w = 0x5b#7) : i.isWord w := by
  refine of_ite_ok h (fun h3 h => decodeCapR_isWord h h3 hop) fun _ h => ?_
  iterate 2
    refine of_ite_ok h (fun h3 h => decodeI_isWord h (fun _ _ _ => ⟨rfl, rfl⟩) h3 hop) fun _ h => ?_
  cases h

theorem decodeBranch_isWord (h : decodeBranch w = .ok i) (hop : fOpcode w = 0x63#7) :
    i.isWord w := by
  unfold decodeBranch at h
  iterate 6
    refine of_ite_ok h (fun h3 h => decodeB_isWord h (fun _ _ _ => ⟨rfl, rfl⟩) h3 hop) fun _ h => ?_
  cases h

theorem decodeSystem_isWord (h : decodeSystem w = .ok i) (hop : fOpcode w = 0x73#7) :
    i.isWord w := by
  unfold decodeSystem at h
  iterate 4
    refine of_ite_ok h (fun hw h => by cases h; exact ⟨rfl, congrArg Encoded.word hw.symm⟩)
      fun _ h => ?_
  iterate 3
    refine of_ite_ok h (fun h3 h => decodeCsr_isWord h (fun _ _ _ => ⟨rfl, rfl⟩) h3 hop) fun _ h => ?_
  iterate 3
    refine of_ite_ok h (fun h3 h =>
      decodeCsrImm_isWord h (fun _ _ _ => ⟨rfl, rfl⟩) h3 hop) fun _ h => ?_
  cases h

/-- Every word that decodes is the one encoding of the well-formed instruction it decodes to. -/
theorem decodeWord_isWord (h : decodeWord w = .ok i) : i.isWord w := by
  refine of_ite_ok h (fun hop h => decodeLoad_isWord h hop) fun _ h => ?_
  refine of_ite_ok h (fun hop h => decodeMiscMem_isWord h hop) fun _ h => ?_
  refine of_ite_ok h (fun hop h => decodeOpImm_isWord h hop) fun _ h => ?_
  refine of_ite_ok h (fun hop h => decodeU_isWord h (fun _ _ => ⟨rfl, rfl⟩) hop) fun _ h => ?_
  refine of_ite_ok h (fun hop h => decodeStore_isWord h hop) fun _ h => ?_
  refine of_ite_ok h (fun hop h => decodeOp_isWord h hop) fun _ h => ?_
  refine of_ite_ok h (fun hop h => decodeU_isWord h (fun _ _ => ⟨rfl, rfl⟩) hop) fun _ h => ?_
  refine of_ite_ok h (fun hop h => decodeCap_isWord h hop) fun _ h => ?_
  refine of_ite_ok h (fun hop h => decodeBranch_isWord h hop) fun _ h => ?_
  refine of_ite_ok h (fun hop h =>
    decodeI_isWord h (fun _ _ _ => ⟨rfl, rfl⟩) hop.2 hop.1) fun _ h => ?_
  refine of_ite_ok h (fun hop h => decodeJ_isWord h (fun _ _ => ⟨rfl, rfl⟩) hop) fun _ h => ?_
  refine of_ite_ok h (fun hop h => decodeSystem_isWord h hop) fun _ h => ?_
  exact of_ite_ok h (fun hop h => decodeU_isWord h (fun _ _ => ⟨rfl, rfl⟩) hop) nofun

/-- The opcode of a word that decodes announces four bytes, and not more (R170). -/
theorem opcode_of_decodeWord (h : decodeWord w = .ok i) :
    (fOpcode w).extractLsb' 0 2 = 3#2 ∧ (fOpcode w).extractLsb' 2 3 ≠ 7#3 := by
  unfold decodeWord at h
  iterate 9 refine of_ite_ok h (fun hop _ => by rw [hop]; decide) fun _ h => ?_
  refine of_ite_ok h (fun hop _ => by rw [hop.1]; decide) fun _ h => ?_
  iterate 3 refine of_ite_ok h (fun hop _ => by rw [hop]; decide) fun _ h => ?_
  cases h

end Opcodes

/-! ## What a parcel that decodes encodes -/

/-- `i` is a well-formed instruction whose one encoding is the parcel `h`. -/
def Instr.isParcel (i : Instr) (h : Parcel) : Prop := i.wellFormed = true ∧ encode i = .parcel h

section Quadrants
variable {h : Parcel} {i j : Instr} {f : BitVec 3}

theorem enc4spn_fields (hq : hQuadrant h = 0#2) (hf : hFunct3 h = 0#3) :
    encode (.rvcAddi4spn (hRdC h) (hImm4spn h)) = .parcel h := by
  have hh := parcel_4spn h
  rw [hq, hf] at hh
  simpa only [encode, hRdC, bits_creg] using congrArg Encoded.parcel hh

theorem encCLw_fields (hq : hQuadrant h = 0#2) (hf : hFunct3 h = f) :
    encCLw f (hImmLw h) (hRs1C h) (hRdC h) = h := by
  have hh := parcel_CLw h
  rw [hq, hf] at hh
  rwa [encCLw, encCL, hRs1C, hRdC, bits_creg, bits_creg]

theorem encCLc_fields (hq : hQuadrant h = 0#2) (hf : hFunct3 h = f) :
    encCLc f (hImmLc h) (hRs1C h) (hRdC h) = h := by
  have hh := parcel_CLc h
  rw [hq, hf] at hh
  rwa [encCLc, encCL, hRs1C, hRdC, bits_creg, bits_creg]

theorem encCJ_fields (hq : hQuadrant h = 1#2) (hf : hFunct3 h = f) : encCJ f (hOffJ h) = h := by
  have hh := parcel_CJ h
  rwa [hq, hf] at hh

theorem encCB_fields (hq : hQuadrant h = 1#2) (hf : hFunct3 h = f) :
    encCB f (hOffB h) (hRs1C h) = h := by
  have hh := parcel_CB h
  rw [hq, hf] at hh
  rwa [encCB, hRs1C, bits_creg]

theorem encCA_fields {hi : BitVec 1} {k : BitVec 2} (hq : hQuadrant h = 1#2)
    (hf : hFunct3 h = 4#3) (hhi : hBit12 h = hi) (hk : h.extractLsb' 10 2 = k) :
    encCA hi k (hRs1C h) (hRs2 h) = h := by
  have hh := parcel_CA h
  rw [hq, hf, hhi, hk] at hh
  rwa [encCA, hRs1C, bits_creg]

theorem encCA_imm_fields {k : BitVec 2} (hq : hQuadrant h = 1#2) (hf : hFunct3 h = 4#3)
    (hk : h.extractLsb' 10 2 = k) :
    encCA ((hImm6 h).extractLsb' 5 1) k (hRs1C h) ((hImm6 h).extractLsb' 0 5) = h := by
  have hh := parcel_CAndi h
  rw [hq, hf, hk] at hh
  rwa [encCA, hRs1C, bits_creg]

theorem encCA_reg_fields {hi : BitVec 1} {k c : BitVec 2} (hq : hQuadrant h = 1#2)
    (hf : hFunct3 h = 4#3) (hhi : hBit12 h = hi) (hk : h.extractLsb' 10 2 = k)
    (hc : h.extractLsb' 5 2 = c) : encCA hi k (hRs1C h) (c ++ (hRdC h).bits) = h := by
  have hh := parcel_CA2 h
  rw [hq, hf, hhi, hk, hc] at hh
  rwa [encCA, hRs1C, hRdC, bits_creg, bits_creg]

theorem encCI_fields_of {hi : BitVec 1} {q : BitVec 2} {r : Reg} (hq : hQuadrant h = q)
    (hf : hFunct3 h = f) (hhi : hBit12 h = hi) (hr : reg (hRd h) = .ok r) :
    encCI f hi r.bits (hRs2 h) q = h := by
  rw [bits_of_reg hr, ← hq, ← hf, ← hhi, encCI_fields]

theorem encCI6_fields_of {q : BitVec 2} {b : BitVec 5} (hq : hQuadrant h = q)
    (hf : hFunct3 h = f) (hb : hRd h = b) : encCI6 f (hImm6 h) b q = h := by
  rw [← hq, ← hf, ← hb, encCI6_fields]

theorem encCR_fields {hi : BitVec 1} {b c : BitVec 5} (hq : hQuadrant h = 2#2)
    (hf : hFunct3 h = 4#3) (hhi : hBit12 h = hi) (hb : hRd h = b) (hc : hRs2 h = c) :
    encCR hi b c = h := by
  have hh := parcel_CR h
  rwa [hq, hf, hhi, hb, hc] at hh

theorem unlessReserved_eq_ok (hd : unlessReserved j = .ok i) : j = i ∧ i.wellFormed = true := by
  unfold unlessReserved at hd
  split at hd
  · cases hd
    exact ⟨rfl, ‹_›⟩
  · cases hd

theorem unlessReserved_isParcel (hd : unlessReserved j = .ok i) (he : encode j = .parcel h) :
    i.isParcel h := by
  obtain ⟨rfl, hwf⟩ := unlessReserved_eq_ok hd
  exact ⟨hwf, he⟩

/-- A decoding that yields `j` for sure. -/
theorem ok_isParcel {p : Parcel} (hd : (.ok j : Except DecodeError Instr) = .ok i)
    (hwf : j.wellFormed = true) (he : encode j = .parcel p) (hp : p = h) : i.isParcel h := by
  cases hd
  exact ⟨hwf, he.trans (congrArg _ hp)⟩

theorem ne_c0_of_field {b : BitVec 5} {r : Reg} (hb : b ≠ 0#5) (hr : reg b = .ok r) :
    (r != .c0) = true := by
  rw [bne_iff_ne]
  rintro rfl
  exact hb (bits_of_reg hr).symm

theorem decodeQ0_isParcel (hd : decodeQ0 h = .ok i) (hq : hQuadrant h = 0#2) : i.isParcel h := by
  refine of_ite_ok hd (fun hf hd => unlessReserved_isParcel hd (enc4spn_fields hq hf)) fun _ hd => ?_
  refine of_ite_ok hd (fun hf hd => ok_isParcel hd rfl rfl (encCLw_fields hq hf)) fun _ hd => ?_
  refine of_ite_ok hd (fun hf hd => ok_isParcel hd rfl rfl (encCLc_fields hq hf)) fun _ hd => ?_
  refine of_ite_ok hd (fun hf hd => ok_isParcel hd rfl rfl (encCLw_fields hq hf)) fun _ hd => ?_
  exact of_ite_ok hd (fun hf hd => ok_isParcel hd rfl rfl (encCLc_fields hq hf)) nofun

theorem decodeQ1Alu_isParcel (hd : decodeQ1Alu h = .ok i) (hq : hQuadrant h = 1#2)
    (hf : hFunct3 h = 4#3) : i.isParcel h := by
  refine of_ite_ok hd (fun hk hd =>
    ok_isParcel hd rfl rfl (encCA_imm_fields hq hf hk)) fun hk2 hd => ?_
  refine of_ite_ok hd nofun fun h12 hd => ?_
  have hbit : hBit12 h = 0#1 := by bv_omega
  refine of_ite_ok hd (fun hk hd =>
    ok_isParcel hd rfl rfl (encCA_fields hq hf hbit hk)) fun hk0 hd => ?_
  refine of_ite_ok hd (fun hk hd =>
    ok_isParcel hd rfl rfl (encCA_fields hq hf hbit hk)) fun hk1 hd => ?_
  have hk : h.extractLsb' 10 2 = 3#2 := by
    generalize h.extractLsb' 10 2 = k at hk0 hk1 hk2
    bv_omega
  refine of_ite_ok hd (fun hc hd =>
    ok_isParcel hd rfl rfl (encCA_reg_fields hq hf hbit hk hc)) fun hc0 hd => ?_
  refine of_ite_ok hd (fun hc hd =>
    ok_isParcel hd rfl rfl (encCA_reg_fields hq hf hbit hk hc)) fun hc1 hd => ?_
  refine of_ite_ok hd (fun hc hd =>
    ok_isParcel hd rfl rfl (encCA_reg_fields hq hf hbit hk hc)) fun hc2 hd => ?_
  have hc : h.extractLsb' 5 2 = 3#2 := by
    generalize h.extractLsb' 5 2 = c at hc0 hc1 hc2
    bv_omega
  exact ok_isParcel hd rfl rfl (encCA_reg_fields hq hf hbit hk hc)

theorem decodeQ1_isParcel (hd : decodeQ1 h = .ok i) (hq : hQuadrant h = 1#2) : i.isParcel h := by
  refine of_ite_ok hd (fun hf hd => of_ite_ok hd (fun hrd hd => ?_) fun hrd hd => ?_)
    fun hf0 hd => ?_
  · exact ok_isParcel hd rfl rfl (encCI6_fields_of hq hf hrd)
  · obtain ⟨rd, hr, hd⟩ := bind_eq_ok.1 hd
    exact ok_isParcel hd (ne_c0_of_field hrd hr) rfl (encCI6_fields_of hq hf (bits_of_reg hr).symm)
  refine of_ite_ok hd (fun hf hd => ok_isParcel hd rfl rfl (encCJ_fields hq hf)) fun hf1 hd => ?_
  refine of_ite_ok hd (fun hf hd => ?_) fun hf2 hd => ?_
  · obtain ⟨rd, hr, hd⟩ := bind_eq_ok.1 hd
    exact ok_isParcel hd rfl rfl (encCI6_fields_of hq hf (bits_of_reg hr).symm)
  refine of_ite_ok hd (fun hf hd => of_ite_ok hd (fun hrd hd => ?_) fun hrd hd => ?_)
    fun hf3 hd => ?_
  · have hh := parcel_16sp h
    rw [hq, hf, hrd] at hh
    exact unlessReserved_isParcel hd (congrArg Encoded.parcel hh)
  · obtain ⟨rd, hr, hd⟩ := bind_eq_ok.1 hd
    exact unlessReserved_isParcel hd
      (congrArg Encoded.parcel (encCI6_fields_of hq hf (bits_of_reg hr).symm))
  refine of_ite_ok hd (fun hf hd => decodeQ1Alu_isParcel hd hq hf) fun hf4 hd => ?_
  refine of_ite_ok hd (fun hf hd => ok_isParcel hd rfl rfl (encCJ_fields hq hf)) fun hf5 hd => ?_
  refine of_ite_ok hd (fun hf hd => ok_isParcel hd rfl rfl (encCB_fields hq hf)) fun hf6 hd => ?_
  have hf : hFunct3 h = 7#3 := by bv_omega
  exact ok_isParcel hd rfl rfl (encCB_fields hq hf)

theorem decodeQ2Jump_isParcel (hd : decodeQ2Jump h = .ok i) (hq : hQuadrant h = 2#2)
    (hf : hFunct3 h = 4#3) : i.isParcel h := by
  have hbit (h12 : hBit12 h ≠ 0#1) : hBit12 h = 1#1 := by bv_omega
  refine of_ite_ok hd (fun hr2 hd => ?_) fun hr2 hd => ?_
  · refine of_ite_ok hd (fun h12 hd => ?_) fun h12 hd =>
      of_ite_ok hd (fun hrd hd => ?_) fun hrd hd => ?_
    · obtain ⟨cs1, hr, hd⟩ := bind_eq_ok.1 hd
      exact unlessReserved_isParcel hd
        (congrArg Encoded.parcel (encCR_fields hq hf h12 (bits_of_reg hr).symm hr2))
    · exact ok_isParcel hd rfl rfl (encCR_fields hq hf (hbit h12) hrd hr2)
    · obtain ⟨cs1, hr, hd⟩ := bind_eq_ok.1 hd
      exact ok_isParcel hd (ne_c0_of_field hrd hr) rfl
        (encCR_fields hq hf (hbit h12) (bits_of_reg hr).symm hr2)
  · obtain ⟨rd, hrd, hd⟩ := bind_eq_ok.1 hd
    obtain ⟨rs2, hrs2, hd⟩ := bind_eq_ok.1 hd
    have hwf := ne_c0_of_field hr2 hrs2
    refine of_ite_ok hd (fun h12 hd => ?_) fun h12 hd => ?_
    · exact ok_isParcel hd hwf rfl
        (encCR_fields hq hf h12 (bits_of_reg hrd).symm (bits_of_reg hrs2).symm)
    · exact ok_isParcel hd hwf rfl
        (encCR_fields hq hf (hbit h12) (bits_of_reg hrd).symm (bits_of_reg hrs2).symm)

theorem decodeQ2_isParcel (hd : decodeQ2 h = .ok i) (hq : hQuadrant h = 2#2) : i.isParcel h := by
  refine of_ite_ok hd (fun hf hd => of_ite_ok hd nofun fun h12 hd => ?_) fun _ hd => ?_
  · obtain ⟨rd, hr, hd⟩ := bind_eq_ok.1 hd
    have hbit : hBit12 h = 0#1 := by bv_omega
    exact ok_isParcel hd rfl rfl (encCI_fields_of hq hf hbit hr)
  refine of_ite_ok hd (fun hf hd => ?_) fun _ hd => ?_
  · obtain ⟨rd, hr, hd⟩ := bind_eq_ok.1 hd
    have hh := parcel_lwsp h
    rw [hq, hf, ← bits_of_reg hr] at hh
    exact unlessReserved_isParcel hd (congrArg Encoded.parcel hh)
  refine of_ite_ok hd (fun hf hd => ?_) fun _ hd => ?_
  · obtain ⟨cd, hr, hd⟩ := bind_eq_ok.1 hd
    have hh := parcel_lcsp h
    rw [hq, hf, ← bits_of_reg hr] at hh
    exact unlessReserved_isParcel hd (congrArg Encoded.parcel hh)
  refine of_ite_ok hd (fun hf hd => decodeQ2Jump_isParcel hd hq hf) fun _ hd => ?_
  refine of_ite_ok hd (fun hf hd => ?_) fun _ hd => of_ite_ok hd (fun hf hd => ?_) nofun
  · obtain ⟨rs2, hr, hd⟩ := bind_eq_ok.1 hd
    have hh := parcel_swsp h
    rw [hq, hf, ← bits_of_reg hr] at hh
    exact ok_isParcel hd rfl rfl hh
  · obtain ⟨cs2, hr, hd⟩ := bind_eq_ok.1 hd
    have hh := parcel_scsp h
    rw [hq, hf, ← bits_of_reg hr] at hh
    exact ok_isParcel hd rfl rfl hh

/-- Every parcel that decodes is the one encoding of the well-formed instruction it decodes to. -/
theorem decodeParcel_isParcel (hd : decodeParcel h = .ok i) : i.isParcel h := by
  refine of_ite_ok hd (fun hq hd => decodeQ0_isParcel hd hq) fun _ hd => ?_
  refine of_ite_ok hd (fun hq hd => decodeQ1_isParcel hd hq) fun _ hd => ?_
  exact of_ite_ok hd (fun hq hd => decodeQ2_isParcel hd hq) nofun

/-- A parcel that decodes announces two bytes (R170). -/
theorem quadrant_of_decodeParcel (hd : decodeParcel h = .ok i) : hQuadrant h ≠ 3#2 := by
  intro hq
  simp [decodeParcel, hq] at hd

end Quadrants

/-! ## Bytes -/

theorem wordBytes_append (b0 b1 b2 b3 : Byte) :
    wordBytes (b3 ++ b2 ++ b1 ++ b0) = [b0, b1, b2, b3] := by
  simp only [wordBytes, List.cons.injEq, and_true]
  refine ⟨?_, ?_, ?_, ?_⟩
  all_goals
    apply BitVec.eq_of_getLsbD_eq
    intro i hi
    simp only [BitVec.getLsbD_extractLsb', BitVec.getLsbD_append]
    interval_cases i <;> simp

/-- Bytes that decode are a parcel that decodes, or a word that does, and any bytes after it. -/
theorem decode_eq_ok {bytes : List Byte} {i : Instr} (hd : decode bytes = .ok i) :
    ∃ e rest, bytes = Encoded.bytes e ++ rest ∧
      ((∃ h, e = .parcel h ∧ decodeParcel h = .ok i) ∨ ∃ w, e = .word w ∧ decodeWord w = .ok i) := by
  match bytes, hd with
  | b0 :: b1 :: rest, hd =>
    refine of_ite_ok hd (fun _ hd => of_ite_ok hd nofun fun _ hd => ?_) fun _ hd => ?_
    · match rest, hd with
      | b2 :: b3 :: rest, hd =>
        refine ⟨.word (b3 ++ b2 ++ b1 ++ b0), rest, ?_, .inr ⟨_, rfl, hd⟩⟩
        rw [Encoded.bytes, wordBytes_append]
        rfl
    · refine ⟨.parcel (b1 ++ b0), rest, ?_, .inl ⟨_, rfl, hd⟩⟩
      rw [Encoded.bytes, BitVec.extractLsb'_append_eq_right, BitVec.extractLsb'_append_eq_left]
      rfl

/-- Settles O1: the format of the encoding decides which decoder reads it, and that one reads it back. -/
theorem decodeOfEncode : Obligations.DecodeOfEncode := by
  intro i rest hwf
  cases he : encode i with
  | parcel h =>
    have hd := decodeParcel_of_encode he hwf
    exact (decode_parcelBytes h rest (quadrant_of_decodeParcel hd)).trans hd
  | word w =>
    have hd := decodeWord_of_encode he
    obtain ⟨h3, h7⟩ := opcode_of_decodeWord hd
    exact (decode_wordBytes w rest h3 h7).trans hd

/-- Settles O2: the bytes are a parcel or a word that decodes, and so the encoding of what it decodes
to. -/
theorem encodeOfDecode : Obligations.EncodeOfDecode := by
  intro bytes i hd
  obtain ⟨e, rest, hbytes, ⟨h, rfl, hd⟩ | ⟨w, rfl, hd⟩⟩ := decode_eq_ok hd
  · obtain ⟨hwf, he⟩ := decodeParcel_isParcel hd
    exact ⟨hwf, rest, he ▸ hbytes⟩
  · obtain ⟨hwf, he⟩ := decodeWord_isWord hd
    exact ⟨hwf, rest, he ▸ hbytes⟩

/-- A word decodes as the table numbers it when its encoding is that word. -/
theorem decodeTableWord_eq {n w : Nat} {i : Instr}
    (h : decode (wordBytes (BitVec.ofNat 32 (w % 2 ^ n))) = .ok i) :
    decodeTableWord n w = some i := by
  rw [decodeTableWord, h]

/-- Settles O3: the decoder evaluated on each of the eight words. -/
theorem specWordsDecode : Obligations.SpecWordsDecode :=
  ⟨decodeTableWord_eq rfl, decodeTableWord_eq rfl, decodeTableWord_eq rfl, decodeTableWord_eq rfl,
    decodeTableWord_eq rfl, decodeTableWord_eq rfl, decodeTableWord_eq rfl, decodeTableWord_eq rfl⟩

end Sys2Proof
end

section
/-! SUPPORT. The bounds of a capability (10_state.md sections 3.4 to 3.6): what they decode to, which
addresses are representable, and what set-bounds chooses. -/

namespace Sys2Proof.Machine

/-! ## Decoded bounds (R61 to R63)

In units of the exponent, the base is the one number that agrees with B in its low nine bits and lies
less than 512 units below the address, and the top lies T - B units, modulo 512, above it. -/

/-- The address in units of the exponent. -/
def Cap.addrUnits (c : Cap) : Nat := c.a.toNat / 2 ^ c.exp

/-- The base in units of the exponent, before it is kept to 32 bits. -/
def Cap.baseUnit (c : Cap) : Int := ((c.aTop : Int) + c.baseCorrection) * 512 + (c.b.toNat : Int)

/-- The length in units of the exponent. -/
def Cap.lengthUnits (c : Cap) : Nat := (c.t.toNat + 512 - c.b.toNat) % 512

section Bounds
variable (c : Cap)

theorem Cap.exp_le : c.exp ≤ 14 ∨ c.exp = 24 := by
  unfold Cap.exp
  split
  · exact .inr rfl
  · left
    bv_omega

theorem Cap.aTop_eq : c.aTop = c.addrUnits / 512 := by
  rw [Cap.aTop, Cap.addrUnits, Nat.div_div_eq_div_mul, Nat.pow_add]

theorem Cap.aMid_eq : c.aMid = c.addrUnits % 512 := rfl

theorem Cap.baseUnit_spec :
    c.baseUnit ≤ c.addrUnits ∧ (c.addrUnits : Int) < c.baseUnit + 512 ∧
      c.baseUnit % 512 = c.b.toNat := by
  have hb := c.b.isLt
  have hmid := c.aMid_eq
  rw [Cap.baseUnit, Cap.baseCorrection, c.aTop_eq]
  split <;> omega

theorem Cap.baseUnit_unique {k : Int} (hle : k ≤ c.addrUnits) (hlt : (c.addrUnits : Int) < k + 512)
    (hmod : k % 512 = c.b.toNat) : c.baseUnit = k := by
  have := c.baseUnit_spec
  omega

theorem Cap.base_eq : c.base = (c.baseUnit * 2 ^ c.exp % 4294967296).toNat := rfl

theorem Cap.top_eq :
    c.top = ((c.baseUnit + c.lengthUnits) * 2 ^ c.exp % 8589934592).toNat := by
  have hb := c.b.isLt
  have ht := c.t.isLt
  have hunits : ((c.aTop : Int) + c.topCorrection) * 512 + (c.t.toNat : Int) =
      c.baseUnit + c.lengthUnits := by
    rw [Cap.baseUnit, Cap.baseCorrection, Cap.topCorrection, Cap.lengthUnits]
    split_ifs <;> omega
  rw [Cap.top, hunits]

theorem Cap.lengthUnits_lt : c.lengthUnits < 512 := Nat.mod_lt _ (by decide)

/-- The address lies within 512 units of the base. -/
theorem Cap.baseUnit_mul_le :
    c.baseUnit * 2 ^ c.exp ≤ c.a.toNat ∧
      (c.a.toNat : Int) < c.baseUnit * 2 ^ c.exp + 512 * 2 ^ c.exp := by
  obtain ⟨hle, hlt, -⟩ := c.baseUnit_spec
  have hu : (0 : Int) < 2 ^ c.exp := by positivity
  have hdiv : (c.addrUnits : Int) * 2 ^ c.exp ≤ c.a.toNat := by
    exact_mod_cast Nat.div_mul_le_self c.a.toNat (2 ^ c.exp)
  have hmod : (c.a.toNat : Int) < c.addrUnits * 2 ^ c.exp + 2 ^ c.exp := by
    exact_mod_cast Nat.lt_div_mul_add (a := c.a.toNat) (Nat.two_pow_pos c.exp)
  constructor <;> nlinarith

/-- The unit of an exponent of at most 14. -/
theorem unit_bounds {e : Nat} (he : e ≤ 14) : (0 : Int) < 2 ^ e ∧ (2 : Int) ^ e ≤ 16384 := by
  refine ⟨by positivity, ?_⟩
  exact_mod_cast Nat.pow_le_pow_right (n := 2) (by decide) he

theorem pow_add_nine (e : Nat) : ((2 ^ (e + 9) : Nat) : Int) = 512 * 2 ^ e := by
  rw [Nat.pow_add]
  push_cast
  ring

end Bounds

section WellFormed
variable {c : Cap}

/-- Below exponent 24 the invariant of R64 excludes a base that is negative before it is kept to 32
bits, so the bounds are what their units say. -/
theorem Cap.wellFormed.bounds_eq (h : c.wellFormed) (he : c.exp ≤ 14) :
    0 ≤ c.baseUnit ∧ (c.base : Int) = c.baseUnit * 2 ^ c.exp ∧
      (c.top : Int) = c.baseUnit * 2 ^ c.exp + c.lengthUnits * 2 ^ c.exp := by
  obtain ⟨-, -, hrange⟩ := h
  obtain ⟨hu0, hu⟩ := unit_bounds he
  obtain ⟨hle, hlt⟩ := c.baseUnit_mul_le
  have hlen := c.lengthUnits_lt
  have hbase : c.base ≤ c.a.toNat := by
    rcases hrange with he' | ⟨hb, -⟩ <;> omega
  have ha := c.a.isLt
  rw [Cap.base_eq] at hbase ⊢
  rw [Cap.top_eq, Int.add_mul]
  have hneg : 0 ≤ c.baseUnit := by
    by_contra hn
    have hp : c.baseUnit * 2 ^ c.exp < 0 := by nlinarith
    generalize c.baseUnit * 2 ^ c.exp = p at *
    omega
  have hp : 0 ≤ c.baseUnit * 2 ^ c.exp := by positivity
  have hl0 : 0 ≤ (c.lengthUnits : Int) * 2 ^ c.exp := by positivity
  have hl : (c.lengthUnits : Int) * 2 ^ c.exp ≤ 512 * 16384 := by nlinarith
  generalize c.baseUnit * 2 ^ c.exp = p at *
  generalize (c.lengthUnits : Int) * 2 ^ c.exp = q at *
  omega

/-- At exponent 24 the bounds do not depend on the address. -/
theorem Cap.bounds_eq_of_exp (he : c.exp = 24) :
    c.base = c.b.toNat % 256 * 16777216 ∧ c.top = c.t.toNat * 16777216 := by
  obtain ⟨-, -, hmod⟩ := c.baseUnit_spec
  have hb := c.b.isLt
  have ht := c.t.isLt
  rw [Cap.base_eq, Cap.top_eq, Cap.lengthUnits, he]
  constructor <;> omega

theorem Cap.representable_iff {a : Word} :
    c.representable a = true ↔ (c.moved a).base = c.base ∧ (c.moved a).top = c.top := by
  rw [Cap.representable, decide_eq_true_iff]

theorem Cap.representable_of_exp (he : c.exp = 24) (a : Word) : c.representable a = true := by
  obtain ⟨hbase, htop⟩ := Cap.bounds_eq_of_exp he
  obtain ⟨hbase', htop'⟩ := Cap.bounds_eq_of_exp (c := c.moved a) he
  exact Cap.representable_iff.2 ⟨hbase'.trans hbase.symm, htop'.trans htop.symm⟩

/-- An address within 512 units above the base has the units of the base. -/
theorem Cap.baseUnit_moved {a : Word} (hle : c.baseUnit * 2 ^ c.exp ≤ a.toNat)
    (hlt : (a.toNat : Int) < c.baseUnit * 2 ^ c.exp + 512 * 2 ^ c.exp) :
    (c.moved a).baseUnit = c.baseUnit := by
  obtain ⟨-, -, hmod⟩ := c.baseUnit_spec
  have hu : (0 : Int) < 2 ^ c.exp := by positivity
  have hunits : ((c.moved a).addrUnits : Int) = (a.toNat : Int) / 2 ^ c.exp := by
    rw [Cap.addrUnits]
    push_cast
    rfl
  refine Cap.baseUnit_unique _ ?_ ?_ hmod <;> rw [hunits]
  · exact (Int.le_ediv_iff_mul_le hu).2 hle
  · exact Int.ediv_lt_of_lt_mul hu (by linarith)

/-- Below exponent 24 an address with the same bounds lies in the range of R67: another base unit gives
another base, or one 2^32 away, which the top tells apart. -/
theorem Cap.wellFormed.range_of_representable (h : c.wellFormed) (he : c.exp ≤ 14) {a : Word}
    (hr : c.representable a = true) :
    c.base ≤ a.toNat ∧ a.toNat < c.base + 2 ^ (c.exp + 9) := by
  obtain ⟨hbase', htop'⟩ := Cap.representable_iff.1 hr
  obtain ⟨hu0, hu⟩ := unit_bounds he
  obtain ⟨hneg, hbase, htop⟩ := h.bounds_eq he
  have hrange : (c.moved a).baseUnit * 2 ^ c.exp ≤ a.toNat ∧
      (a.toNat : Int) < (c.moved a).baseUnit * 2 ^ c.exp + 512 * 2 ^ c.exp :=
    (c.moved a).baseUnit_mul_le
  have ha := a.isLt
  have hpow := pow_add_nine c.exp
  have hbaseEq : ((c.moved a).baseUnit * 2 ^ c.exp % 4294967296).toNat = c.base := hbase'
  have htopEq : (((c.moved a).baseUnit * 2 ^ c.exp + c.lengthUnits * 2 ^ c.exp) % 8589934592).toNat =
      c.top := by
    rw [← Int.add_mul, ← htop', Cap.top_eq]
    rfl
  generalize (c.moved a).baseUnit * 2 ^ c.exp = p' at *
  generalize c.baseUnit * 2 ^ c.exp = p at *
  generalize (c.lengthUnits : Int) * 2 ^ c.exp = q at *
  omega

theorem Cap.wellFormed.representable_of_range (h : c.wellFormed) (he : c.exp ≤ 14) {a : Word}
    (hle : c.base ≤ a.toNat) (hlt : a.toNat < c.base + 2 ^ (c.exp + 9)) :
    c.representable a = true := by
  obtain ⟨-, hbase, -⟩ := h.bounds_eq he
  have hpow := pow_add_nine c.exp
  have hunit : (c.moved a).baseUnit = c.baseUnit := Cap.baseUnit_moved (by omega) (by omega)
  rw [Cap.representable_iff, Cap.base_eq, Cap.top_eq, hunit, Cap.base_eq, Cap.top_eq]
  exact ⟨rfl, rfl⟩

/-- Below exponent 24 a well-formed capability is less than 512 units long. -/
theorem Cap.wellFormed.top_lt (h : c.wellFormed) (he : c.exp ≤ 14) :
    c.top < c.base + 2 ^ (c.exp + 9) := by
  obtain ⟨-, hbase, htop⟩ := h.bounds_eq he
  have hlen := c.lengthUnits_lt
  have hu := (unit_bounds he).1
  have hq : (c.lengthUnits : Int) * 2 ^ c.exp < 512 * 2 ^ c.exp := by
    have : (c.lengthUnits : Int) < 512 := by exact_mod_cast hlen
    nlinarith
  have hpow := pow_add_nine c.exp
  omega

/-- R67: the representable addresses of a well-formed capability. -/
theorem Cap.wellFormed.representable_iff_range (h : c.wellFormed) (a : Word) :
    c.representable a = true ↔
      c.exp = 24 ∨ c.base ≤ a.toNat ∧ a.toNat < c.base + 2 ^ (c.exp + 9) := by
  rcases c.exp_le with he | he
  · refine ⟨fun hr => .inr (h.range_of_representable he hr), ?_⟩
    rintro (he' | ⟨hle, hlt⟩)
    · omega
    · exact h.representable_of_range he hle hlt
  · exact ⟨fun _ => .inl he, fun _ => Cap.representable_of_exp he a⟩

end WellFormed

/-- Settles O52: `Cap.wellFormed.representable_iff_range`; the top is in the range, as a capability is
less than 512 units long. -/
theorem representableRange : Obligations.RepresentableRange := by
  intro c h
  refine ⟨h.representable_iff_range, fun htop => (h.representable_iff_range _).2 ?_⟩
  rcases c.exp_le with he | he
  · have hlt := h.top_lt he
    obtain ⟨hle, -, -⟩ := h
    have hnat : (BitVec.ofNat 32 c.top).toNat = c.top := by
      rw [BitVec.toNat_ofNat, Nat.mod_eq_of_lt htop]
    exact .inr ⟨by omega, by omega⟩
  · exact .inl he

/-! ## The exponent set-bounds chooses (R69)

It is the least admissible exponent, of 0..14 and 24, at which the requested range, rounded outward,
takes at most 511 units. -/

/-- Rounding up to a multiple of `u`, by adding one to what is not a multiple. -/
theorem div_add_ite_eq (n : Nat) {u : Nat} (hu : 0 < u) :
    n / u + (if n % u = 0 then 0 else 1) = (n + u - 1) / u := by
  have hdiv := Nat.div_add_mod n u
  have hmod := Nat.mod_lt n hu
  symm
  split <;> apply Nat.div_eq_of_lt_le <;> simp only [Nat.add_mul, Nat.mul_comm (n / u)] <;> omega

theorem roundUp_le_iff {n u k : Nat} (hu : 0 < u) : (n + u - 1) / u ≤ k ↔ n ≤ k * u := by
  rw [Nat.div_le_iff_le_mul_add_pred hu, Nat.mul_comm]
  omega

/-- A number rounded up is not below it. -/
theorem le_roundUp_mul (n : Nat) {u : Nat} (hu : 0 < u) : n ≤ (n + u - 1) / u * u :=
  (roundUp_le_iff hu).1 le_rfl

/-- The units of exponent `x` that the range of `l` bytes from `b` takes when rounded outward. -/
def spanUnits (x : Nat) (b l : Word) : Nat :=
  (b.toNat + l.toNat + 2 ^ x - 1) / 2 ^ x - b.toNat / 2 ^ x

/-- The exponents a capability can have (R61). -/
def admissibleExp (x : Nat) : Prop := x ≤ 14 ∨ x = 24

section Choice
variable {x : Nat} {b l : Word}

theorem topUnits_eq : topUnits x b l = (b.toNat + l.toNat + 2 ^ x - 1) / 2 ^ x % 1024 := by
  rw [topUnits, div_add_ite_eq _ (Nat.two_pow_pos x)]

theorem baseUnits_le_top : b.toNat / 2 ^ x ≤ (b.toNat + l.toNat + 2 ^ x - 1) / 2 ^ x :=
  Nat.div_le_div_right (by have := Nat.two_pow_pos x; omega)

theorem spanUnits_le {k : Nat} (h : l.toNat ≤ k * 2 ^ x) : spanUnits x b l ≤ k + 1 := by
  have hb := Nat.lt_div_mul_add (a := b.toNat) (Nat.two_pow_pos x)
  have htop : (b.toNat + l.toNat + 2 ^ x - 1) / 2 ^ x ≤ b.toNat / 2 ^ x + 1 + k := by
    rw [roundUp_le_iff (Nat.two_pow_pos x), Nat.add_mul, Nat.add_mul]
    omega
  rw [spanUnits]
  omega

theorem length_le_of_spanUnits {k : Nat} (h : spanUnits x b l ≤ k) : l.toNat ≤ k * 2 ^ x := by
  have hle : (b.toNat + l.toNat + 2 ^ x - 1) / 2 ^ x ≤ b.toNat / 2 ^ x + k := by
    rw [spanUnits] at h
    omega
  rw [roundUp_le_iff (Nat.two_pow_pos x), Nat.add_mul] at hle
  have := Nat.div_mul_le_self b.toNat (2 ^ x)
  omega

theorem capExp_admissible (x : Nat) : admissibleExp (capExp x) := by
  unfold capExp admissibleExp
  split <;> omega

theorem capExp_le {y : Nat} (hy : admissibleExp y) (h : x ≤ y) : capExp x ≤ y := by
  unfold capExp
  unfold admissibleExp at hy
  split <;> omega

theorem firstExp_eq (h : l.toNat ≠ 0) : firstExp l = capExp (l.toNat.log2 - 8) := by
  have hlog : l.toNat.log2 < 32 := (Nat.log2_lt h).2 l.isLt
  rw [firstExp, clz32, if_neg h]
  congr 1
  omega

theorem firstExp_zero (h : l.toNat = 0) : firstExp l = 0 := by
  rw [firstExp, clz32, if_pos h]
  rfl

theorem firstExp_admissible (l : Word) : admissibleExp (firstExp l) := capExp_admissible _

/-- At the first exponent the length takes less than 512 units; at 24 even less than 256. -/
theorem length_lt_firstExp : l.toNat < 2 ^ (firstExp l + 9) := by
  by_cases h : l.toNat = 0
  · rw [h]
    exact Nat.two_pow_pos _
  · refine Nat.lt_log2_self.trans_le (Nat.pow_le_pow_right (by decide) ?_)
    have hlog : l.toNat.log2 < 32 := (Nat.log2_lt h).2 l.isLt
    rw [firstExp_eq h, capExp]
    split <;> omega

/-- Below the first exponent the length takes 512 units and more. -/
theorem le_length_of_lt_firstExp (hx : x ≤ 14) (h : x < firstExp l) : 2 ^ (x + 9) ≤ l.toNat := by
  have hl : l.toNat ≠ 0 := fun h0 => by simp [firstExp_zero h0] at h
  refine (Nat.pow_le_pow_right (by decide) ?_).trans (Nat.log2_self_le hl)
  rw [firstExp_eq hl, capExp] at h
  split at h <;> omega

/-- The test of R69 compares the units taken with 511. -/
theorem boundsExp_eq (b l : Word) : boundsExp b l =
    if 511 < spanUnits (firstExp l) b l then capExp (firstExp l + 1) else firstExp l := by
  have hspan : spanUnits (firstExp l) b l ≤ 512 + 1 := spanUnits_le (by
    have := length_lt_firstExp (l := l)
    rw [Nat.pow_add] at this
    omega)
  have hle := baseUnits_le_top (x := firstExp l) (b := b) (l := l)
  rw [boundsExp, topUnits_eq, baseUnits]
  congr 2
  rw [spanUnits] at hspan ⊢
  omega

theorem boundsExp_admissible (b l : Word) : admissibleExp (boundsExp b l) := by
  rw [boundsExp_eq]
  split
  · exact capExp_admissible _
  · exact firstExp_admissible l

/-- The range takes at most 511 units of the chosen exponent. -/
theorem spanUnits_boundsExp (b l : Word) : spanUnits (boundsExp b l) b l ≤ 511 := by
  rw [boundsExp_eq]
  split
  · rename_i hbig
    refine (spanUnits_le (k := 256) ?_).trans (by decide)
    have hlen := length_lt_firstExp (l := l)
    have hmono : 2 ^ (firstExp l + 1) ≤ 2 ^ capExp (firstExp l + 1) := by
      rcases firstExp_admissible l with hx | hx
      · refine Nat.pow_le_pow_right (by decide) ?_
        rw [capExp]
        split <;> omega
      · have hspan := spanUnits_le (x := firstExp l) (b := b) (l := l) (k := 256)
          (by rw [hx]; have := l.isLt; omega)
        omega
    rw [Nat.pow_succ] at hmono
    rw [Nat.pow_add] at hlen
    omega
  · omega

/-- The chosen exponent is the least that will do. -/
theorem boundsExp_le (hx : admissibleExp x) (h : spanUnits x b l ≤ 511) : boundsExp b l ≤ x := by
  have hlen := length_le_of_spanUnits h
  have hfirst : firstExp l ≤ x := by
    by_contra hlt
    have hx14 : x ≤ 14 := by
      rcases hx with hx | hx
      · exact hx
      · rcases firstExp_admissible l with hf | hf <;> omega
    have hpow := le_length_of_lt_firstExp hx14 (Nat.lt_of_not_le hlt)
    have := Nat.two_pow_pos x
    rw [Nat.pow_add] at hpow
    omega
  rw [boundsExp_eq]
  split
  · have hne : firstExp l ≠ x := by
      rintro rfl
      omega
    exact capExp_le hx (by omega)
  · exact hfirst

/-- The unit of an admissible exponent divides the address space. -/
theorem unit_dvd {k : Nat} (hx : admissibleExp x) (hk : 24 ≤ k) : 2 ^ x ∣ 2 ^ k := by
  refine Nat.pow_dvd_pow 2 ?_
  rcases hx with hx | hx <;> omega

end Choice

/-! ## What set-bounds gives (R69, R70) -/

section SetBounds
variable (c : Cap) (l : Word)

theorem Cap.setBounds_exp (b : Word) : (c.setBounds b l).exp = boundsExp b l := by
  rcases boundsExp_admissible b l with hx | hx
  · have hne : boundsExp b l ≠ 24 := by omega
    have he : (BitVec.ofNat 4 (boundsExp b l)).toNat = boundsExp b l := by
      rw [BitVec.toNat_ofNat, Nat.mod_eq_of_lt (by omega)]
    have h15 : BitVec.ofNat 4 (boundsExp b l) ≠ 15 := by
      intro h
      rw [h] at he
      have : boundsExp b l = 15 := he.symm
      omega
    simp only [Cap.exp, Cap.setBounds, if_neg hne, if_neg h15, he]
  · simp [Cap.exp, Cap.setBounds, hx]

theorem Cap.setBounds_addrUnits :
    (c.setBounds c.a l).addrUnits = c.a.toNat / 2 ^ boundsExp c.a l := by
  rw [Cap.addrUnits, Cap.setBounds_exp]
  rfl

theorem Cap.setBounds_baseUnit :
    (c.setBounds c.a l).baseUnit = (c.a.toNat / 2 ^ boundsExp c.a l : Nat) := by
  have hb : (c.setBounds c.a l).b.toNat = c.a.toNat / 2 ^ boundsExp c.a l % 1024 % 512 :=
    BitVec.toNat_ofNat _ _
  refine Cap.baseUnit_unique _ ?_ ?_ ?_
  · rw [Cap.setBounds_addrUnits]
  · rw [Cap.setBounds_addrUnits]
    omega
  · omega

theorem Cap.setBounds_lengthUnits :
    (c.setBounds c.a l).lengthUnits = spanUnits (boundsExp c.a l) c.a l := by
  have hb : (c.setBounds c.a l).b.toNat = c.a.toNat / 2 ^ boundsExp c.a l % 1024 % 512 :=
    BitVec.toNat_ofNat _ _
  have ht : (c.setBounds c.a l).t.toNat = topUnits (boundsExp c.a l) c.a l % 512 :=
    BitVec.toNat_ofNat _ _
  have hle := baseUnits_le_top (x := boundsExp c.a l) (b := c.a) (l := l)
  have hspan := spanUnits_boundsExp c.a l
  rw [Cap.lengthUnits, hb, ht, topUnits_eq]
  rw [spanUnits] at hspan ⊢
  omega

/-- The base is the address rounded down. -/
theorem Cap.setBounds_base :
    (c.setBounds c.a l).base = c.a.toNat / 2 ^ boundsExp c.a l * 2 ^ boundsExp c.a l := by
  have hle := Nat.div_mul_le_self c.a.toNat (2 ^ boundsExp c.a l)
  have ha := c.a.isLt
  rw [Cap.base_eq, Cap.setBounds_baseUnit, Cap.setBounds_exp]
  norm_cast
  omega

/-- The top is the end of the requested range rounded up. -/
theorem Cap.setBounds_top :
    (c.setBounds c.a l).top =
      (c.a.toNat + l.toNat + 2 ^ boundsExp c.a l - 1) / 2 ^ boundsExp c.a l *
        2 ^ boundsExp c.a l % 8589934592 := by
  have hle := baseUnits_le_top (x := boundsExp c.a l) (b := c.a) (l := l)
  rw [Cap.top_eq, Cap.setBounds_baseUnit, Cap.setBounds_lengthUnits, Cap.setBounds_exp, spanUnits]
  norm_cast
  rw [Nat.add_sub_cancel' hle]

/-- The address is less than one unit above the base. -/
theorem Cap.setBounds_range :
    (c.setBounds c.a l).base ≤ c.a.toNat ∧
      c.a.toNat < (c.setBounds c.a l).base + 2 ^ ((c.setBounds c.a l).exp + 9) := by
  have hle := Nat.div_mul_le_self c.a.toNat (2 ^ boundsExp c.a l)
  have hlt := Nat.lt_div_mul_add (a := c.a.toNat) (Nat.two_pow_pos (boundsExp c.a l))
  rw [Cap.setBounds_base, Cap.setBounds_exp, Nat.pow_add]
  omega

/-- The bounds are exact when both ends of the requested range are aligned. -/
theorem Cap.boundsExact_iff :
    boundsExact c.a l = true ↔ (c.setBounds c.a l).base = c.a.toNat ∧
      (c.setBounds c.a l).top = c.a.toNat + l.toNat := by
  have hu := Nat.two_pow_pos (boundsExp c.a l)
  have hdvd : 2 ^ boundsExp c.a l ∣ 8589934592 := unit_dvd (k := 33) (boundsExp_admissible c.a l) (by decide)
  have hlt : c.a.toNat + l.toNat < 8589934592 := by
    have := c.a.isLt
    have := l.isLt
    omega
  rw [Cap.setBounds_base, Cap.setBounds_top, boundsExact, decide_eq_true_iff]
  generalize 2 ^ boundsExp c.a l = u at *
  constructor
  · rintro ⟨hb, ht⟩
    refine ⟨Nat.div_mul_cancel (Nat.dvd_of_mod_eq_zero hb), ?_⟩
    rw [← div_add_ite_eq _ hu, if_pos ht, Nat.add_zero,
      Nat.div_mul_cancel (Nat.dvd_of_mod_eq_zero ht), Nat.mod_eq_of_lt hlt]
  · rintro ⟨hb, ht⟩
    refine ⟨by rw [← hb, Nat.mul_mod_left], ?_⟩
    rw [← ht, Nat.mod_mod_of_dvd _ hdvd, Nat.mul_mod_left]

end SetBounds

/-- Settles O53: each clause is one of the lemmas on `Cap.setBounds` above. -/
theorem setBoundsDecoded : Obligations.SetBoundsDecoded := fun c l =>
  ⟨c.setBounds_base l, c.setBounds_top l, c.boundsExact_iff l, .inr (c.setBounds_range l)⟩

/-! ## Set-bounds inside the bounds of a well-formed capability -/

/-- The bounds of a well-formed capability are multiples of its unit, at most 511 units apart. -/
theorem Cap.wellFormed.units {c : Cap} (h : c.wellFormed) :
    ∃ m n, c.base = m * 2 ^ c.exp ∧ c.top = (m + n) * 2 ^ c.exp ∧ n ≤ 511 := by
  rcases c.exp_le with he | he
  · obtain ⟨hneg, hbase, htop⟩ := h.bounds_eq he
    obtain ⟨m, hm⟩ := Int.eq_ofNat_of_zero_le hneg
    refine ⟨m, c.lengthUnits, ?_, ?_, Nat.le_of_lt_succ c.lengthUnits_lt⟩
    · rw [hm] at hbase
      exact_mod_cast hbase
    · rw [hm, ← Int.add_mul] at htop
      exact_mod_cast htop
  · obtain ⟨hbase, htop⟩ := Cap.bounds_eq_of_exp he
    obtain ⟨hle, hlim, -⟩ := h
    refine ⟨c.b.toNat % 256, c.t.toNat - c.b.toNat % 256, ?_, ?_, by omega⟩
    · rw [hbase, he]
      norm_num
    · rw [Nat.add_sub_cancel' (by omega), htop, he]
      norm_num

/-- Rounding to a smaller unit does not leave a range between multiples of a larger one. -/
theorem roundDown_ge {m u E n : Nat} (hu : 0 < u) (hdvd : u ∣ E) (h : m * E ≤ n) :
    m * E ≤ n / u * u := by
  obtain ⟨k, rfl⟩ := hdvd
  rw [Nat.mul_left_comm, Nat.mul_comm u] at h ⊢
  exact Nat.mul_le_mul_right _ ((Nat.le_div_iff_mul_le hu).2 h)

theorem roundUp_le {m u E n : Nat} (hu : 0 < u) (hdvd : u ∣ E) (h : n ≤ m * E) :
    (n + u - 1) / u * u ≤ m * E := by
  obtain ⟨k, rfl⟩ := hdvd
  rw [Nat.mul_left_comm, Nat.mul_comm u] at h ⊢
  exact Nat.mul_le_mul_right _ ((roundUp_le_iff hu).2 h)

/-- Settles O54: the range fits 511 units of the exponent of `c`, so the chosen exponent is no larger,
and the bounds of `c` are multiples of its unit, which rounding outward does not cross. -/
theorem setBoundsMonotone : Obligations.SetBoundsMonotone := by
  intro c l hwf hbase htop
  obtain ⟨m, n, hm, hn, hn511⟩ := hwf.units
  obtain ⟨-, hlim, -⟩ := hwf
  rw [hm] at hbase
  rw [hn] at htop hlim
  have hunit := Nat.two_pow_pos c.exp
  have hlow : m ≤ c.a.toNat / 2 ^ c.exp := (Nat.le_div_iff_mul_le hunit).2 hbase
  have hhigh : (c.a.toNat + l.toNat + 2 ^ c.exp - 1) / 2 ^ c.exp ≤ m + n :=
    (roundUp_le_iff hunit).2 htop
  have hexp : boundsExp c.a l ≤ c.exp := boundsExp_le c.exp_le (by rw [spanUnits]; omega)
  have hdvd := Nat.pow_dvd_pow 2 hexp
  have hu := Nat.two_pow_pos (boundsExp c.a l)
  have hround := roundUp_le hu hdvd htop
  have hend := le_roundUp_mul (c.a.toNat + l.toNat) hu
  have htopEq := c.setBounds_top l
  rw [Nat.mod_eq_of_lt (hround.trans_lt (hlim.trans_lt (by decide)))] at htopEq
  have hrange := c.setBounds_range l
  rw [hm, hn]
  refine ⟨?_, ?_, ?_, ?_, .inr hrange⟩
  · rw [Cap.setBounds_base]
    exact roundDown_ge hu hdvd hbase
  · rw [htopEq]
    exact hround
  · rw [htopEq]
    omega
  · rw [htopEq]
    exact hround.trans hlim

/-! ## Representable lengths (R402, R403, R405) -/

section Lengths
variable (l : Word)

theorem spanUnits_zero (x : Nat) : spanUnits x 0 l = (l.toNat + 2 ^ x - 1) / 2 ^ x := by
  simp [spanUnits]

theorem unit_le {x : Nat} (hx : admissibleExp x) : 2 ^ x ≤ 16777216 :=
  Nat.le_of_dvd (by decide) (unit_dvd (k := 24) hx le_rfl)

/-- CRAM delivers the mask of the alignment. -/
theorem alignmentMask_eq :
    alignmentMask l = BitVec.ofNat 32 (2 ^ 32 - 2 ^ boundsExp 0 l) := by
  have hu := unit_le (boundsExp_admissible 0 l)
  have hpos := Nat.two_pow_pos (boundsExp 0 l)
  apply BitVec.eq_of_toNat_eq
  rw [alignmentMask, BitVec.toNat_shiftLeft, Nat.shiftLeft_eq, BitVec.toNat_ofNat, BitVec.toNat_ofNat]
  generalize 2 ^ boundsExp 0 l = u at *
  omega

theorem mod_div_mul_mod {n u k : Nat} : n % (u * k) / u * u % (u * k) = n / u * u % (u * k) := by
  rw [Nat.mod_mul_right_div_self, Nat.mul_comm u k, Nat.mul_mod_mul_right, Nat.mul_mod_mul_right,
    Nat.mod_mod]

/-- CRRL delivers the length rounded up, modulo 2^32. -/
theorem roundedLength_eq :
    roundedLength l = BitVec.ofNat 32
      ((l.toNat + 2 ^ boundsExp 0 l - 1) / 2 ^ boundsExp 0 l * 2 ^ boundsExp 0 l) := by
  have hu := unit_le (boundsExp_admissible 0 l)
  have hpos := Nat.two_pow_pos (boundsExp 0 l)
  obtain ⟨k, hk⟩ : 2 ^ boundsExp 0 l ∣ 2 ^ 32 := unit_dvd (boundsExp_admissible 0 l) (by decide)
  have hsum : (l + ~~~alignmentMask l).toNat = (l.toNat + 2 ^ boundsExp 0 l - 1) % 2 ^ 32 := by
    rw [alignmentMask_eq, BitVec.toNat_add, BitVec.toNat_not, BitVec.toNat_ofNat]
    generalize 2 ^ boundsExp 0 l = u at *
    omega
  have hmask : alignmentMask l = BitVec.allOnes 32 <<< boundsExp 0 l := rfl
  apply BitVec.eq_of_toNat_eq
  rw [roundedLength, hmask, and_clearLow, ← hmask, hsum, BitVec.toNat_ofNat, BitVec.toNat_ofNat, hk,
    mod_div_mul_mod]

/-- A base aligned to the unit of an exponent, with at most 511 units of length, has exact bounds. -/
theorem boundsExact_of_aligned {b : Word} {x k : Nat} (hx : admissibleExp x) (hk : k ≤ 511)
    (hb : b.toNat % 2 ^ x = 0) (hl : l.toNat = k * 2 ^ x) : boundsExact b l = true := by
  have hpos := Nat.two_pow_pos x
  have hbdvd : 2 ^ x ∣ b.toNat := Nat.dvd_of_mod_eq_zero hb
  have hldvd : 2 ^ x ∣ l.toNat := ⟨k, by rw [hl, Nat.mul_comm]⟩
  have htop : (b.toNat + l.toNat + 2 ^ x - 1) / 2 ^ x ≤ b.toNat / 2 ^ x + k := by
    rw [roundUp_le_iff hpos, Nat.add_mul, Nat.div_mul_cancel hbdvd, hl]
  have hexp : boundsExp b l ≤ x := boundsExp_le hx (by rw [spanUnits]; omega)
  have hdvd := Nat.pow_dvd_pow 2 hexp
  rw [boundsExact, decide_eq_true_iff]
  exact ⟨Nat.mod_eq_zero_of_dvd (hdvd.trans hbdvd),
    Nat.mod_eq_zero_of_dvd ((hdvd.trans hbdvd).add (hdvd.trans hldvd))⟩

end Lengths

/-- Settles O50: the exponent is `boundsExp 0 l`, the least at which the length takes at most 511
units. -/
theorem representableLengthResults : Obligations.RepresentableLengthResults := by
  intro s rd rs1 l holds
  have hadm := boundsExp_admissible 0 (s.x rs1)
  have hfits : holds (boundsExp 0 (s.x rs1)) := by
    have := spanUnits_boundsExp 0 (s.x rs1)
    rwa [spanUnits_zero] at this
  have hleast (d : Nat) (hd : d < boundsExp 0 (s.x rs1)) (hd14 : d ≤ 14) : ¬holds d := by
    intro hh
    have hle : boundsExp 0 (s.x rs1) ≤ d := boundsExp_le (.inl hd14) (by rwa [spanUnits_zero])
    omega
  have hholds (d : Nat) : holds d ↔ l ≤ 511 * 2 ^ d := roundUp_le_iff (Nat.two_pow_pos d)
  refine ⟨boundsExp 0 (s.x rs1), hadm, hfits, hleast, ⟨fun hbig => ?_, fun he => ?_⟩, ?_, ?_,
    fun b hb => ?_⟩
  · refine hadm.resolve_left fun h14 => ?_
    have hle := (hholds _).1 hfits
    have hmono : 2 ^ boundsExp 0 (s.x rs1) ≤ 2 ^ 14 := Nat.pow_le_pow_right (by decide) h14
    omega
  · have hnot := hleast 14 (by omega) le_rfl
    rw [hholds] at hnot
    omega
  · rw [← alignmentMask_eq]
    exact finishX_writesInt 4 rd _ s
  · have hround := roundedLength_eq (s.x rs1)
    rw [← hround]
    exact finishX_writesInt 4 rd _ s
  · obtain ⟨k, hk⟩ : 2 ^ boundsExp 0 (s.x rs1) ∣ 2 ^ 32 := unit_dvd hadm (by decide)
    refine boundsExact_of_aligned _ hadm
      (k := (l + 2 ^ boundsExp 0 (s.x rs1) - 1) / 2 ^ boundsExp 0 (s.x rs1) % k)
      ((Nat.mod_le _ _).trans hfits) hb ?_
    rw [BitVec.toNat_ofNat, hk, Nat.mul_comm _ k, Nat.mul_mod_mul_right]

end Sys2Proof.Machine
end

section
/-! SUPPORT. The invariants of memory and of PCC: the canonical form (log 4 and 11), and what PCC, MTCC
and MEPCC may hold (R39, R82, R83), kept by every step and true after reset. -/

namespace Sys2Proof.Machine

/-! ## From effects to steps -/

/-- What holds after an exception, an interrupt and every effect of an instruction holds after every
step. -/
theorem step_induction {s t : State} {p : State → Prop} (h : step s = .next t)
    (hirq : ∀ code, p (s.tick.takeInterrupt code)) (heffect : ∀ u, Effect s.tick u → p u) : p t := by
  rcases step_next h with ⟨code, -, rfl⟩ | ⟨-, ⟨e, -, rfl⟩ | ⟨w, e, -, -, rfl⟩ | ⟨w, i, -, -, hexec⟩⟩
  · exact hirq code
  · exact heffect _ (.trapped e)
  · exact heffect _ (.trapped _)
  · exact heffect _ (exec_effect hexec)

/-! ## The canonical form -/

section Canonical
variable {s t : State}

/-- The bytes of a store, in memory and in the record of stores alike, keep the canonical form. -/
theorem canonical_of_store {addr : Nat} {bytes : List Byte} (hs : s.canonical)
    (hplatform : t.platform = s.platform)
    (hmem : t.mem = writeBytes s.platform s.mem addr bytes) (hcode : t.codeMem = s.codeMem)
    (hunfenced : t.unfenced = ⟨addr, bytes⟩ :: s.unfenced) (htags : t.tags.wf) : t.canonical := by
  obtain ⟨hwf, hcodewf, -, hreplay⟩ := hs
  refine ⟨hmem ▸ writeBytes_wf _ _ _ _ hwf, hcode ▸ hcodewf, htags, ?_⟩
  rw [hplatform, hcode, hunfenced, replay_cons, if_pos rfl, hreplay, hmem]

theorem Effect.canonical (he : Effect s t) (hs : s.canonical) : t.canonical := by
  have ⟨hwf, _, htags, _⟩ := hs
  cases he with
  | trapped | wrote | advanced | branched | linked | jumped | returned | csrRead | scrRead => exact hs
  | stored => exact canonical_of_store hs rfl rfl rfl rfl (clearTags_wf _ _ _ _ htags)
  | storedCap => exact canonical_of_store hs rfl rfl rfl rfl (storeTag_wf _ _ _ _ htags)
  | fetchSynced => exact ⟨hwf, hwf, htags, rfl⟩
  | csrWritten c => cases c <;> exact hs
  | scrWritten cd n => cases n <;> exact hs

end Canonical

/-- Settles O57: every effect keeps the canonical form, and no interrupt touches memory. -/
theorem canonicalKept : Obligations.CanonicalKept := fun _ _ hs h =>
  step_induction h (fun _ => hs) fun _ he => he.canonical hs

/-! ## PCC, MTCC and MEPCC -/

section PccSound
variable {s t : State}

theorem even_add {a b : Word} (ha : a.toNat % 2 = 0) (hb : b.toNat % 2 = 0) :
    (a + b).toNat % 2 = 0 := by
  rw [BitVec.toNat_add]
  omega

theorem even_of_getLsbD {a : Word} (h : a.getLsbD 0 = false) : a.toNat % 2 = 0 := by
  rw [BitVec.getLsbD, Nat.testBit_zero, decide_eq_false_iff_not] at h
  omega

theorem isLength.even {len : Word} (h : isLength len) : len.toNat % 2 = 0 := by
  rcases h with rfl | rfl <;> rfl

/-- Clearing bit 0 leaves an even address (R286 step 7). -/
theorem even_and_clearBit0 (a : Word) : (a &&& 0xFFFFFFFE).toNat % 2 = 0 := by
  have h : a &&& 0xFFFFFFFE = BitVec.ofNat 32 (a.toNat / 2 * 2) := and_clearLow a 1
  rw [h, BitVec.toNat_ofNat]
  omega

/-- What MEPCC holds may be installed in PCC, at an even address, whatever was written. -/
theorem legalMepcc_sound (v : Cap) :
    (legalMepcc v).installable ∧ (legalMepcc v).a.toNat % 2 = 0 := by
  refine ⟨fun ht => ?_, even_and_clearBit0 v.a⟩
  have h : v.isSealed = false ∧ v.isExec = true := by
    simp only [legalMepcc, Bool.and_eq_true, Bool.not_eq_true'] at ht
    obtain ⟨⟨-, hsealed⟩, hexec⟩ := ht
    exact ⟨hsealed, hexec⟩
  exact h

/-- A copy of an installable capability at another address, tagged only if it was, is installable. -/
theorem Cap.installable.moved {c : Cap} (h : c.installable) (a : Word) {tag : Bool}
    (htag : tag = true → c.tag = true) : ({ c with a := a, tag := tag } : Cap).installable :=
  fun ht => h (htag ht)

/-- Only `pc`, PCC, MTCC and MEPCC matter, and `pc` may be any even address. -/
theorem State.pccSound.withPc (h : s.pccSound) (hpc : t.pc.toNat % 2 = 0) (hpcc : t.pcc = s.pcc)
    (hmtcc : t.mtcc = s.mtcc) (hmepcc : t.mepcc = s.mepcc) : t.pccSound := by
  obtain ⟨-, h1, h2, h3, h4, h5⟩ := h
  rw [State.pccSound, hpcc, hmtcc, hmepcc]
  exact ⟨hpc, h1, h2, h3, h4, h5⟩

/-- A trap puts PCC at `pc`, tagged only if it was, in MEPCC and enters MTCC (R480). -/
theorem State.pccSound.enterTrap (h : s.pccSound) {tag : Bool} (htag : tag = true → s.pcc.tag = true)
    (cause value : Word) :
    (s.enterTrap { s.pcc with a := s.pc, tag := tag } cause value).pccSound := by
  obtain ⟨hpc, hmtcc, hmepcc, hp, hm, he⟩ := h
  have heven : s.mtcc.a.toNat % 2 = 0 := by omega
  exact ⟨heven, hmtcc, hpc, hm, hm, hp.moved s.pc htag⟩

theorem State.pccSound.trap (h : s.pccSound) (e : Exc) : (s.trap e).pccSound :=
  h.enterTrap (fun ht => (Bool.and_eq_true_iff.1 (Bool.and_eq_true_iff.1 ht).1).1) _ _

theorem State.pccSound.takeInterrupt (h : s.pccSound) (code : Nat) :
    (s.takeInterrupt code).pccSound :=
  h.enterTrap (fun ht => (Bool.and_eq_true_iff.1 ht).1) _ _

theorem Effect.pccSound (he : Effect s t) (h : s.pccSound) : t.pccSound := by
  have ⟨hpc, hmtcc, hmepcc, hp, hm, hme⟩ := h
  have hadvance {len : Word} (hl : isLength len) : (s.pc + len).toNat % 2 = 0 :=
    even_add hpc hl.even
  cases he with
  | trapped e => exact h.trap e
  | wrote _ _ _ _ hl | advanced _ hl | stored _ _ _ _ _ _ hl | storedCap _ _ _ _ _ hl =>
    exact h.withPc (hadvance hl) rfl rfl rfl
  | fetchSynced | csrRead | scrRead => exact h.withPc (hadvance isLength_four) rfl rfl rfl
  | branched off even | linked d len off even =>
    exact h.withPc (even_add hpc (even_of_getLsbD even)) rfl rfl rfl
  | jumped len cd cs1 imm hcheck =>
    obtain ⟨-, -, -, hexec⟩ := checkJump_none hcheck
    exact ⟨even_and_clearBit0 _, hmtcc, hmepcc, fun _ => ⟨rfl, hexec⟩, hm, hme⟩
  | returned => exact ⟨hmepcc, hmtcc, hmepcc, hme, hm, hme⟩
  | csrWritten c => cases c <;> exact h.withPc (hadvance isLength_four) rfl rfl rfl
  | scrWritten cd n r =>
    have hpc' := hadvance isLength_four
    cases n with
    | mtcc =>
      obtain ⟨hinst, halign⟩ := legalMtcc_sound (s.reg r)
      exact ⟨hpc', halign, hmepcc, hp, hinst, hme⟩
    | mepcc =>
      obtain ⟨hinst, halign⟩ := legalMepcc_sound (s.reg r)
      exact ⟨hpc', hmtcc, halign, hp, hm, hinst⟩
    | mtdc | mscratchc => exact h.withPc hpc' rfl rfl rfl

end PccSound

/-- Settles O58: interrupts and every effect keep what PCC, MTCC and MEPCC may hold. -/
theorem pccSoundKept : Obligations.PccSoundKept := fun s _ hs h =>
  have htick : s.tick.pccSound := hs
  step_induction h htick.takeInterrupt fun _ he => he.pccSound htick

/-! ## Reset -/

theorem rootX_isExec : rootX.isExec = true := by decide

theorem rootCap_wellFormed (p : BitVec 6) (a : Word) : ((rootCap p).moved a).wellFormed := by
  rw [Cap.wellFormed, rootCap_moved_base, rootCap_moved_top, rootCap_moved_exp]
  exact ⟨by decide, le_rfl, .inl rfl⟩

/-- A reset that draws no tag leaves tagged capabilities in PCC and the SCRs only, and these are
roots. -/
theorem resetOn_capsWellFormed (p : Platform) {d : ResetDraws} (h : d.tags = []) :
    (State.resetOn p d).capsWellFormed := by
  have htags (g : Nat) : (State.resetOn p d).tags.read g = false := by
    change TagMemory.read d.tagMemory g = false
    rw [ResetDraws.tagMemory, h]
    rfl
  refine ⟨fun g _ hg => absurd ((htags g).symm.trans hg) (by decide), fun c hc ht => ?_⟩
  cases hc with
  | reg r =>
    rw [resetOn_reg] at ht
    cases ht
  | pcc => exact rootCap_wellFormed _ _
  | scr n =>
    obtain ⟨q, hq⟩ := resetOn_scr_root p d n
    rw [hq]
    exact rootCap_wellFormed q 0
  | memory g =>
    have hfalse : ((State.resetOn p d).loadCap g).tag = false := by
      change (_ && _) = false
      rw [htags, Bool.and_false]
    exact absurd (hfalse.symm.trans ht) (by decide)

/-- Settles O56: memory and tags are built by writes, which keep their form; PCC and the SCRs are
roots. -/
theorem resetInvariants : Obligations.ResetInvariants := by
  intro p d
  refine ⟨⟨d.memory_wf, d.memory_wf, d.tagMemory_wf, rfl⟩, ⟨?_, rfl, rfl, ?_, ?_, ?_⟩,
    resetOn_capsWellFormed p⟩
  · rw [resetOn_pc]
    omega
  all_goals exact fun _ => ⟨rfl, rootX_isExec⟩

end Sys2Proof.Machine
end

section
/-! SUPPORT. Provenance (R377, R523): every tagged capability the machine holds after a step is derived
from one it held before, which bounds its rights and passes on the invariant of R64. -/

namespace Sys2Proof.Machine

/-! ## Bytes of memory as words and capabilities -/

theorem word_of_halves (w : Word) :
    (w.extractLsb' 24 8 ++ w.extractLsb' 16 8) ++ (w.extractLsb' 8 8 ++ w.extractLsb' 0 8) = w := by
  apply BitVec.eq_of_getLsbD_eq
  intro i hi
  simp only [BitVec.getLsbD_append, BitVec.getLsbD_extractLsb']
  interval_cases i <;> simp

theorem mkcap_high (tag : Bool) (c : Cap) : mkcap tag c.high c.a = { c with tag := tag } := by
  obtain ⟨_, r, p, o, e, t, b, a⟩ := c
  have hr : (BitVec.ofBool r ++ p ++ o ++ e ++ t ++ b).getLsbD 31 = r := by
    simp only [BitVec.getLsbD_append]
    simp
  simp only [mkcap, Cap.high, Cap.mk.injEq, true_and, and_true]
  refine ⟨hr, ?_, ?_, ?_, ?_, ?_⟩
  all_goals
    apply BitVec.eq_of_getLsbD_eq
    intro i hi
    simp only [BitVec.getLsbD_extractLsb', BitVec.getLsbD_append]
    interval_cases i <;> simp

section Memory
variable {s t : State}

/-- A word read from the four bytes of a word. -/
theorem load32_of_bytes {a : Nat} {w : Word}
    (h : ∀ k, k < 4 → s.byteAt .data (a + k) = (wordBytes w).getD k 0) : s.load32 a = w := by
  have h0 : s.byteAt .data a = w.extractLsb' 0 8 := h 0 (by decide)
  have h1 : s.byteAt .data (a + 1) = w.extractLsb' 8 8 := h 1 (by decide)
  have h2 : s.byteAt .data (a + 2) = w.extractLsb' 16 8 := h 2 (by decide)
  have h3 : s.byteAt .data (a + 3) = w.extractLsb' 24 8 := h 3 (by decide)
  change (s.byteAt .data (a + 3) ++ s.byteAt .data (a + 2)) ++
    (s.byteAt .data (a + 1) ++ s.byteAt .data a) = w
  rw [h0, h1, h2, h3, word_of_halves]

/-- The capability read from the eight bytes of a capability. -/
theorem loadCap_of_bytes {a : Nat} {v : Cap}
    (h : ∀ k, k < 8 → s.byteAt .data (a + k) = (capBytes v).getD k 0) :
    s.loadCap a = { v with tag := tagged s.platform a && s.tags.read a } := by
  have hlow : s.load32 a = v.a := load32_of_bytes fun k hk => by
    rw [h k (by omega), capBytes, List.getD_append _ _ _ _ hk]
  have hhigh : s.load32 (a + 4) = v.high := load32_of_bytes fun k hk => by
    have hlen : (wordBytes v.a).length = 4 := rfl
    rw [Nat.add_assoc, h (4 + k) (by omega), capBytes, List.getD_append_right _ _ _ _ (by omega),
      hlen, Nat.add_sub_cancel_left]
  rw [State.loadCap, hlow, hhigh, mkcap_high]

/-- The capability of a granule depends on its eight bytes and its tag. -/
theorem loadCap_congr {a : Nat} (hplatform : t.platform = s.platform)
    (hbytes : ∀ k, k < 8 → t.byteAt .data (a + k) = s.byteAt .data (a + k))
    (htag : t.tags.read a = s.tags.read a) : t.loadCap a = s.loadCap a := by
  have h16 (b : Nat) (hb : b < 7) : t.load16 (a + b) = s.load16 (a + b) := by
    rw [State.load16, State.load16, Nat.add_assoc, hbytes _ (by omega), hbytes _ (by omega)]
  have hlow : t.load32 a = s.load32 a := by
    have h0 : t.load16 a = s.load16 a := h16 0 (by decide)
    rw [State.load32, State.load32, h16 2 (by decide), h0]
  have hhigh : t.load32 (a + 4) = s.load32 (a + 4) := by
    rw [State.load32, State.load32, Nat.add_assoc, h16 6 (by decide), h16 4 (by decide)]
  rw [State.loadCap, State.loadCap, hplatform, htag, hlow, hhigh]

/-- A byte of ram is the one in memory. -/
theorem byteAt_of_ram {why : ReadPurpose} {a : Nat} (h : isDevice s.platform a = false) :
    s.byteAt why a = s.mem.read a := by
  rw [State.byteAt, h]
  rfl

theorem deviceGranule_eq_false {p : Platform} {g : Nat} :
    deviceGranule p g = false ↔ ∀ k, k < 8 → isDevice p (g + k) = false := by
  simp [deviceGranule]

/-- A tagged capability in memory has its tag set, in a granule without device bytes. -/
theorem State.devicesUntagged.of_loadCap (h : s.devicesUntagged) {g : Nat} (hg : g % 8 = 0)
    (ht : (s.loadCap g).tag = true) :
    s.tags.read g = true ∧ ∀ k, k < 8 → isDevice s.platform (g + k) = false := by
  have htag : s.tags.read g = true := (Bool.and_eq_true_iff.1 ht).2
  exact ⟨htag, deviceGranule_eq_false.1 (h g hg htag)⟩

end Memory

/-! ## Derived capabilities -/

/-- `d` takes its rights from the tagged capability `c`, and its invariant with them. -/
structure Cap.DerivedFrom (d c : Cap) : Prop where
  tagged : c.tag = true
  within : d.within c
  wellFormed : c.wellFormed → d.wellFormed
  void : c.void → d.void

section Derived
variable {c d : Cap}

/-- No permission is outside a set that includes the vector. -/
theorem and_not_eq_zero {m n : BitVec 12} (h : ∀ i, m.getLsbD i = true → n.getLsbD i = true) :
    m &&& ~~~n = 0 := by
  apply BitVec.eq_of_getLsbD_eq
  intro i hi
  have hi' := h i
  cases hm : m.getLsbD i <;> simp_all

theorem and_not_self (m : BitVec 12) : m &&& ~~~m = 0 := and_not_eq_zero fun _ => id

/-- Encoding a subset of some permissions gives a subset (R47). -/
theorem encperms_subset {m n : BitVec 12} (h : ∀ i, m.getLsbD i = true → n.getLsbD i = true) :
    permsOf (encperms m) &&& ~~~n = 0 := by
  refine and_not_eq_zero fun i hi => h i ?_
  have hlt : i < 12 := BitVec.lt_of_getLsbD hi
  obtain ⟨q, rfl⟩ : ∃ q : Perm, q.bit = i := by
    interval_cases i
    exacts [⟨.gl, rfl⟩, ⟨.lg, rfl⟩, ⟨.sd, rfl⟩, ⟨.lm, rfl⟩, ⟨.sl, rfl⟩, ⟨.ld, rfl⟩, ⟨.mc, rfl⟩,
      ⟨.sr, rfl⟩, ⟨.ex, rfl⟩, ⟨.us, rfl⟩, ⟨.se, rfl⟩, ⟨.u0, rfl⟩]
  exact hasPerm_of_encperms hi

/-- With the same bounds fields and address, only the permissions matter. -/
theorem derived_of_sameFields (ht : c.tag = true) (ha : d.a = c.a) (he : d.e = c.e) (hb : d.b = c.b)
    (htop : d.t = c.t) (hp : d.perms &&& ~~~c.perms = 0) : d.DerivedFrom c := by
  obtain ⟨_, r, p, o, e, t, b, a⟩ := d
  obtain rfl := ha
  obtain rfl := he
  obtain rfl := hb
  obtain rfl := htop
  exact ⟨ht, ⟨le_rfl, le_rfl, hp⟩, id, id⟩

theorem derived_refl (ht : c.tag = true) : c.DerivedFrom c :=
  derived_of_sameFields ht rfl rfl rfl rfl (and_not_self _)

/-- A move to a representable address keeps the bounds, whatever becomes of the seal (R67). -/
theorem derived_of_representable {a : Word} {otype : BitVec 3} {tag : Bool} (ht : c.tag = true)
    (hr : c.representable a = true) :
    ({ c with a := a, otype := otype, tag := tag } : Cap).DerivedFrom c := by
  obtain ⟨hbase, htop⟩ := Cap.representable_iff.1 hr
  have hbase' : ({ c with a := a, otype := otype, tag := tag } : Cap).base = c.base := hbase
  have htop' : ({ c with a := a, otype := otype, tag := tag } : Cap).top = c.top := htop
  refine ⟨ht, ⟨hbase'.ge, htop'.le, and_not_self _⟩, fun hwf => ?_, fun hv => ?_⟩
  · have hrange := (hwf.representable_iff_range a).1 hr
    obtain ⟨hle, hlim, -⟩ := hwf
    rw [Cap.wellFormed, hbase', htop']
    exact ⟨hle, hlim, hrange⟩
  · rw [Cap.void, hbase', htop']
    exact hv

theorem withAddr_derived {a : Word} (h : (c.withAddr a).tag = true) :
    (c.withAddr a).DerivedFrom c := by
  obtain ⟨hts, hr⟩ := Bool.and_eq_true_iff.1 h
  exact derived_of_representable (Bool.and_eq_true_iff.1 hts).1 hr

theorem capSetBounds_derived {exactly : Bool} {l : Word} (hc : c.tag = true → c.wellFormed ∨ c.void)
    (h : (capSetBounds exactly c l).tag = true) : (capSetBounds exactly c l).DerivedFrom c := by
  have hparts := h
  simp only [capSetBounds, Bool.and_eq_true] at hparts
  obtain ⟨⟨⟨ht, -⟩, hin⟩, -⟩ := hparts
  rcases hc ht with hwf | hv
  · obtain ⟨hbase, htop⟩ := of_decide_eq_true hin
    obtain ⟨hbase', htop', hwf'⟩ := setBoundsMonotone c l hwf hbase htop
    refine ⟨ht, ⟨hbase', htop', and_not_self _⟩, fun _ => hwf', fun hv => ?_⟩
    exact absurd hwf.1 (Nat.not_le_of_lt hv)
  · rw [hv.inBounds] at hin
    cases hin

theorem capAndPerm_derived {ok : Bool} {mask : Word} (h : (capAndPerm ok c mask).tag = true) :
    (capAndPerm ok c mask).DerivedFrom c := by
  refine derived_of_sameFields (Bool.and_eq_true_iff.1 h).1 rfl rfl rfl rfl (encperms_subset ?_)
  intro i hi
  rw [BitVec.getLsbD_and, Bool.and_eq_true] at hi
  exact hi.1

theorem capSeal_derived {k : Cap} (h : (capSeal c k).tag = true) : (capSeal c k).DerivedFrom c := by
  have hparts := h
  simp only [capSeal, Bool.and_eq_true] at hparts
  obtain ⟨⟨⟨ht, -⟩, -⟩, -⟩ := hparts
  exact derived_of_sameFields ht rfl rfl rfl rfl (and_not_self _)

theorem getLsbD_of_dropPerm {m : BitVec 12} {q : Perm} {i : Nat}
    (h : (dropPerm m q).getLsbD i = true) : m.getLsbD i = true := by
  rw [dropPerm, BitVec.getLsbD_and, Bool.and_eq_true] at h
  exact h.1

theorem capUnseal_derived {k : Cap} (h : (capUnseal c k).tag = true) :
    (capUnseal c k).DerivedFrom c := by
  have hparts := h
  simp only [capUnseal, Bool.and_eq_true] at hparts
  obtain ⟨⟨⟨ht, -⟩, -⟩, -⟩ := hparts
  unfold capUnseal localise
  split
  · exact derived_of_sameFields ht rfl rfl rfl rfl (and_not_self _)
  · exact derived_of_sameFields ht rfl rfl rfl rfl
      (encperms_subset fun _ => getLsbD_of_dropPerm (m := c.perms))

/-- A load drops permissions and adds none (R310 step 5). -/
theorem getLsbD_of_loadedPerms {auth v : Cap} {i : Nat}
    (h : (loadedPerms auth v).getLsbD i = true) : v.perms.getLsbD i = true := by
  have hdrop {b : Bool} {m : BitVec 12} {p q : Perm}
      (hm : (if b then m else dropPerm (dropPerm m p) q).getLsbD i = true) : m.getLsbD i = true := by
    split at hm
    · exact hm
    · exact getLsbD_of_dropPerm (getLsbD_of_dropPerm hm)
  replace h := hdrop h
  split_ifs at h
  · exact h
  · exact getLsbD_of_dropPerm h
  · exact getLsbD_of_dropPerm (getLsbD_of_dropPerm h)

theorem loadedCap_derived {s : State} {auth : Cap} (h : (s.loadedCap auth c).tag = true) :
    (s.loadedCap auth c).DerivedFrom c := by
  unfold State.loadedCap at h ⊢
  split at h
  · rename_i hmc
    rw [if_pos hmc]
    exact derived_of_sameFields (Bool.and_eq_true_iff.1 hmc).1 rfl rfl rfl rfl
      (encperms_subset fun _ => getLsbD_of_loadedPerms)
  · cases h

theorem legalMtcc_derived (h : (legalMtcc c).tag = true) : (legalMtcc c).DerivedFrom c := by
  have hparts := h
  rw [legalMtcc_eq] at hparts
  simp only [Bool.and_eq_true, beq_iff_eq] at hparts
  obtain ⟨⟨⟨ht, halign⟩, -⟩, -⟩ := hparts
  have ha : BitVec.ofNat 32 (c.a.toNat / 4 * 4) = c.a := by
    rw [Nat.div_mul_cancel (Nat.dvd_of_mod_eq_zero halign), BitVec.ofNat_toNat, BitVec.setWidth_eq]
  rw [legalMtcc_eq]
  exact derived_of_sameFields ht ha rfl rfl rfl (and_not_self _)

theorem legalMepcc_derived (h : (legalMepcc c).tag = true) : (legalMepcc c).DerivedFrom c := by
  have hparts := h
  rw [legalMepcc_eq] at hparts
  simp only [Bool.and_eq_true, beq_iff_eq] at hparts
  obtain ⟨⟨⟨ht, halign⟩, -⟩, -⟩ := hparts
  have ha : BitVec.ofNat 32 (c.a.toNat / 2 * 2) = c.a := by
    rw [Nat.div_mul_cancel (Nat.dvd_of_mod_eq_zero halign), BitVec.ofNat_toNat, BitVec.setWidth_eq]
  rw [legalMepcc_eq]
  exact derived_of_sameFields ht ha rfl rfl rfl (and_not_self _)

end Derived

/-! ## What an instruction leaves in the machine -/

/-- If `d` is tagged, it is derived from a capability the machine holds. -/
def State.Grounds (s : State) (d : Cap) : Prop := d.tag = true → ∃ c, s.holds c ∧ d.DerivedFrom c

section Grounds
variable {s t : State}

theorem State.holds.grounds {c : Cap} (h : s.holds c) : s.Grounds c :=
  fun ht => ⟨c, h, derived_refl ht⟩

theorem grounds_of_untagged {d : Cap} (h : d.tag = false) : s.Grounds d :=
  fun ht => absurd (h.symm.trans ht) (by decide)

/-- PCC at another address, tagged only if that is representable (R38), whatever its seal. -/
theorem pccVal_grounds {a : Word} {otype : BitVec 3} {tag : Bool}
    (h : tag = true → s.pcc.tag = true ∧ s.pcc.representable a = true) :
    s.Grounds { s.pcc with a := a, otype := otype, tag := tag } := fun ht =>
  ⟨s.pcc, .pcc, derived_of_representable (h ht).1 (h ht).2⟩

/-- The address of a capability access that passes the check is a multiple of 8 (R125). -/
theorem aligned_of_checkAccess {k : AccessKind} {r : Reg} {imm : Word} {n : Nat}
    (hk : k.isCap = true) (h : s.checkAccess k r imm n = none) :
    (s.dataAddr r imm).toNat % 8 = 0 := by
  obtain ⟨-, -, -, -, -, -, halign, -⟩ := checkAccess_none h
  simpa [misaligned, hk] using halign

theorem Produced.grounds {d : Cap} (h : Produced s d) (hs : s.capsSound) : s.Grounds d := by
  obtain ⟨-, hsound⟩ := hs
  intro ht
  cases h with
  | untagged _ h => exact absurd (h.symm.trans ht) (by decide)
  | copied r => exact (State.holds.reg r).grounds ht
  | pccMoved a => exact ⟨_, .pcc, withAddr_derived ht⟩
  | moved r a => exact ⟨_, .reg r, withAddr_derived ht⟩
  | bounded _ r l => exact ⟨_, .reg r, capSetBounds_derived (hsound _ (.reg r)) ht⟩
  | restricted r mask => exact ⟨_, .reg r, capAndPerm_derived ht⟩
  | sealed r k => exact ⟨_, .reg r, capSeal_derived ht⟩
  | unsealed r k => exact ⟨_, .reg r, capUnseal_derived ht⟩
  | loaded r imm hcheck =>
    exact ⟨_, .memory _ (aligned_of_checkAccess rfl hcheck), loadedCap_derived ht⟩

/-- The capabilities of a state whose registers, PCC, SCRs and memory all have their ground. -/
theorem grounds_of_holds {d : Cap} (h : t.holds d) (hreg : ∀ r, s.Grounds (t.reg r))
    (hpcc : s.Grounds t.pcc) (hscr : ∀ n, s.Grounds (t.scr n))
    (hmem : ∀ g, g % 8 = 0 → s.Grounds (t.loadCap g)) : s.Grounds d := by
  cases h with
  | reg r => exact hreg r
  | pcc => exact hpcc
  | scr n => exact hscr n
  | memory g hg => exact hmem g hg

/-- A register write of a value with its ground. -/
theorem setReg_grounds {d : Reg} {v : Cap} (hv : s.Grounds v) (r : Reg) :
    s.Grounds ((s.setReg d v).reg r) := by
  rw [State.reg_setReg]
  split
  · exact hv
  · exact (State.holds.reg r).grounds

/-! ## Memory after a store -/

theorem granule_of_aligned {g k : Nat} (hg : g % 8 = 0) (hk : k < 8) : granule (g + k) = g := by
  rw [granule]
  omega

/-- A store leaves the capability of a granule it does not touch. -/
theorem loadCap_of_untouched {g addr : Nat} {bytes : List Byte}
    (hplatform : t.platform = s.platform) (hdraws : t.draws = s.draws)
    (hmem : t.mem = writeBytes s.platform s.mem addr bytes)
    (htag : t.tags.read g = s.tags.read g)
    (haway : ∀ k, k < 8 → ¬(addr ≤ g + k ∧ g + k < addr + bytes.length)) :
    t.loadCap g = s.loadCap g := by
  refine loadCap_congr hplatform (fun k hk => ?_) htag
  have hread : t.mem.read (g + k) = s.mem.read (g + k) := by
    rw [hmem, writeBytes_read, if_neg fun h => haway k hk ⟨h.1, h.2.1⟩]
  rw [State.byteAt, State.byteAt, hplatform, hdraws, hread]

/-- An integer store leaves tagged only granules it does not touch (R131). -/
theorem memWrite_grounds (addr : Word) (bytes : List Byte) {g : Nat} (hg : g % 8 = 0) :
    s.Grounds ((s.memWrite addr bytes).loadCap g) := by
  intro ht
  obtain ⟨htagged, htag⟩ := Bool.and_eq_true_iff.1 ht
  change tagged s.platform g = true at htagged
  have hread := htag
  rw [State.memWrite_tags, clearTags_read, htagged, Bool.true_and, Bool.and_eq_true,
    Bool.not_eq_true', decide_eq_false_iff_not] at hread
  obtain ⟨hold, haway⟩ := hread
  have hsame : (s.memWrite addr bytes).loadCap g = s.loadCap g := by
    refine loadCap_of_untouched rfl rfl rfl (htag.trans hold.symm) fun k hk hin => haway ?_
    refine ⟨g + k - addr.toNat, by omega, ?_⟩
    rw [show addr.toNat + (g + k - addr.toNat) = g + k by omega, granule_of_aligned hg hk]
  rw [hsame] at ht ⊢
  exact (State.holds.memory g hg).grounds ht

/-- The granule of a capability store holds what was stored (R134), where no byte is a device's. -/
theorem loadCap_memWriteCap (addr : Word) (tag : Bool) (v : Cap)
    (hram : ∀ k, k < 8 → isDevice s.platform (addr.toNat + k) = false) :
    (s.memWriteCap addr tag v).loadCap addr.toNat =
      { v with tag := tagged s.platform addr.toNat &&
        (s.memWriteCap addr tag v).tags.read addr.toNat } := by
  refine loadCap_of_bytes fun k hk => ?_
  have hlen : (capBytes v).length = 8 := rfl
  rw [byteAt_of_ram (s := s.memWriteCap addr tag v) (hram k hk), State.memWriteCap_mem, writeBytes_read,
    if_pos ⟨by omega, by omega, hram k hk⟩, Nat.add_sub_cancel_left]

theorem memWriteCap_grounds {addr : Word} {auth : Cap} {r : Reg} (halign : addr.toNat % 8 = 0)
    {g : Nat} (hg : g % 8 = 0) :
    s.Grounds ((s.memWriteCap addr (storedTag auth (s.reg r)) (s.reg r)).loadCap g) := by
  intro ht
  obtain ⟨htagged, htag⟩ := Bool.and_eq_true_iff.1 ht
  change tagged s.platform g = true at htagged
  have hread := htag
  rw [State.memWriteCap_tags, storeTag_read] at hread
  by_cases hga : g = addr.toNat
  · subst hga
    rw [if_pos ⟨rfl, htagged⟩, Bool.and_eq_true, Bool.not_eq_true', deviceGranule_eq_false] at hread
    obtain ⟨hstored, hram⟩ := hread
    rw [loadCap_memWriteCap _ _ _ hram]
    exact ⟨_, .reg r, derived_of_sameFields (tag_of_storedTag hstored) rfl rfl rfl rfl
      (and_not_self _)⟩
  · rw [if_neg fun h => hga h.1] at hread
    have hsame : (s.memWriteCap addr (storedTag auth (s.reg r)) (s.reg r)).loadCap g =
        s.loadCap g := by
      refine loadCap_of_untouched rfl rfl rfl (htag.trans hread.symm) fun k hk hin => ?_
      have hlen : (capBytes (s.reg r)).length = 8 := rfl
      omega
    rw [hsame] at ht ⊢
    exact (State.holds.memory g hg).grounds ht

/-! ## Every effect -/

theorem trap_holds_grounds {epcc : Cap} {cause value : Word} {d : Cap}
    (hepcc : s.Grounds epcc) (h : (s.enterTrap epcc cause value).holds d) : s.Grounds d := by
  refine grounds_of_holds h (fun r => (State.holds.reg r).grounds) (State.holds.scr .mtcc).grounds
    (fun n => ?_) fun g hg => (State.holds.memory g hg).grounds
  cases n with
  | mepcc => exact hepcc
  | mtcc => exact (State.holds.scr .mtcc).grounds
  | mtdc => exact (State.holds.scr .mtdc).grounds
  | mscratchc => exact (State.holds.scr .mscratchc).grounds

theorem takeInterrupt_holds_grounds {code : Nat} {d : Cap} (h : (s.takeInterrupt code).holds d) :
    s.Grounds d :=
  trap_holds_grounds (pccVal_grounds Bool.and_eq_true_iff.1) h

theorem setScr_grounds {n : Scr} {v : Cap} (hv : s.holds v) (m : Scr) :
    s.Grounds ((s.setScr n v).scr m) := by
  rw [State.scr_setScr]
  split
  · cases n with
    | mtcc => exact fun ht => ⟨v, hv, legalMtcc_derived ht⟩
    | mepcc => exact fun ht => ⟨v, hv, legalMepcc_derived ht⟩
    | mtdc | mscratchc => exact hv.grounds
  · exact (State.holds.scr m).grounds

/-- Every capability in the machine after an effect has its ground before it. -/
theorem Effect.grounds (he : Effect s t) (hs : s.capsSound) {d : Cap} (h : t.holds d) :
    s.Grounds d := by
  have hreg (r : Reg) : s.Grounds (s.reg r) := (State.holds.reg r).grounds
  have hscr (n : Scr) : s.Grounds (s.scr n) := (State.holds.scr n).grounds
  have hpcc : s.Grounds s.pcc := State.holds.pcc.grounds
  have hmem (g : Nat) (hg : g % 8 = 0) : s.Grounds (s.loadCap g) :=
    (State.holds.memory g hg).grounds
  have hint (rd r : Reg) (v : Word) : s.Grounds ((s.setX rd v).reg r) :=
    setReg_grounds (grounds_of_untagged rfl) r
  cases he with
  | trapped e =>
    refine trap_holds_grounds (pccVal_grounds fun ht => ?_) h
    exact Bool.and_eq_true_iff.1 (Bool.and_eq_true_iff.1 ht).1
  | wrote rd v len hv => exact grounds_of_holds h (setReg_grounds (hv.grounds hs)) hpcc hscr hmem
  | advanced | branched | fetchSynced => exact grounds_of_holds h hreg hpcc hscr hmem
  | linked rd len =>
    exact grounds_of_holds h (setReg_grounds (pccVal_grounds Bool.and_eq_true_iff.1)) hpcc hscr hmem
  | jumped len cd cs1 imm hcheck =>
    have htag := (checkJump_none hcheck).1
    refine grounds_of_holds h (setReg_grounds (pccVal_grounds Bool.and_eq_true_iff.1))
      (fun _ => ⟨_, .reg cs1, ?_⟩) hscr hmem
    exact derived_of_sameFields htag rfl rfl rfl rfl (and_not_self _)
  | stored => exact grounds_of_holds h hreg hpcc hscr fun g hg => memWrite_grounds _ _ hg
  | storedCap r v imm len hcheck =>
    exact grounds_of_holds h hreg hpcc hscr fun g hg =>
      memWriteCap_grounds (aligned_of_checkAccess rfl hcheck) hg
  | returned => exact grounds_of_holds h hreg (hscr .mepcc) hscr hmem
  | csrRead c rd => exact grounds_of_holds h (fun r => hint rd r _) hpcc hscr hmem
  | csrWritten c rd v =>
    cases c <;> exact grounds_of_holds h (fun r => hint rd r _) hpcc hscr hmem
  | scrRead cd n => exact grounds_of_holds h (setReg_grounds (hscr n)) hpcc hscr hmem
  | scrWritten cd n r =>
    cases n <;> exact grounds_of_holds h (setReg_grounds (hscr _)) hpcc (setScr_grounds (.reg r)) hmem

/-! ## Device granules (log 8) -/

/-- With the tags as they were, or fewer, device granules stay untagged. -/
theorem devicesUntagged_of_tags (hs : s.devicesUntagged) (hplatform : t.platform = s.platform)
    (htags : ∀ g, t.tags.read g = true → s.tags.read g = true) : t.devicesUntagged := by
  intro g hg ht
  rw [hplatform]
  exact hs g hg (htags g ht)

theorem Effect.devicesUntagged (he : Effect s t) (hs : s.devicesUntagged) : t.devicesUntagged := by
  cases he with
  | trapped | wrote | advanced | branched | linked | jumped | fetchSynced | returned | csrRead
  | scrRead => exact hs
  | stored n r imm bytes =>
    exact devicesUntagged_of_tags hs rfl fun g => memWrite_sets_no_tag
  | storedCap r v imm len =>
    intro g hg ht
    change deviceGranule s.platform g = false
    change (storeTag s.platform s.tags _ _).read g = true at ht
    rw [storeTag_read] at ht
    split at ht
    · rename_i hgranule
      rw [hgranule.1]
      simpa using (Bool.and_eq_true_iff.1 ht).2
    · exact hs g hg ht
  | csrWritten c => cases c <;> exact hs
  | scrWritten cd n => cases n <;> exact hs

/-! ## Every step -/

/-- The draw number changes what devices answer, and so no tagged capability. -/
theorem tick_holds {c : Cap} (hs : s.devicesUntagged) (h : s.tick.holds c) (ht : c.tag = true) :
    s.holds c := by
  cases h with
  | reg r => exact .reg r
  | pcc => exact .pcc
  | scr n => exact .scr n
  | memory g hg =>
    have htick : s.tick.devicesUntagged := hs
    obtain ⟨-, hram⟩ := htick.of_loadCap hg ht
    have hsame : s.tick.loadCap g = s.loadCap g := loadCap_congr rfl (fun k hk => by
      rw [byteAt_of_ram (s := s.tick) (hram k hk), byteAt_of_ram (s := s) (hram k hk)]
      rfl) rfl
    rw [hsame]
    exact .memory g hg

theorem State.capsSound.tick (hs : s.capsSound) : s.tick.capsSound :=
  ⟨hs.1, fun c hc ht => hs.2 c (tick_holds hs.1 hc ht) ht⟩

/-- Every tagged capability the machine holds after a step is derived from one it held before. -/
theorem step_derived (hs : s.capsSound) (h : step s = .next t) {d : Cap} (hd : t.holds d)
    (ht : d.tag = true) : ∃ c, s.holds c ∧ d.DerivedFrom c := by
  have hgrounds : s.tick.Grounds d :=
    step_induction (p := fun u => u.holds d → s.tick.Grounds d) h
      (fun _ => takeInterrupt_holds_grounds) (fun _ he => he.grounds hs.tick) hd
  obtain ⟨c, hc, hder⟩ := hgrounds ht
  exact ⟨c, tick_holds hs.1 hc hder.tagged, hder⟩

theorem step_devicesUntagged (hs : s.devicesUntagged) (h : step s = .next t) : t.devicesUntagged :=
  step_induction h (fun _ => hs) fun _ he => he.devicesUntagged hs

theorem State.capsWellFormed.capsSound (hs : s.capsWellFormed) : s.capsSound :=
  ⟨hs.1, fun c hc ht => .inl (hs.2 c hc ht)⟩

end Grounds

/-- Settles O59: a derived capability is well formed, or void, where the one it is derived from is. -/
theorem capsWellFormedKept : Obligations.CapsWellFormedKept := by
  intro s t h
  refine ⟨fun hs => ⟨step_devicesUntagged hs.1 h, fun d hd ht => ?_⟩,
    fun hs => ⟨step_devicesUntagged hs.1 h, fun d hd ht => ?_⟩⟩
  · obtain ⟨c, hc, hder⟩ := step_derived hs.capsSound h hd ht
    exact hder.wellFormed (hs.2 c hc hder.tagged)
  · obtain ⟨c, hc, hder⟩ := step_derived hs h hd ht
    exact (hs.2 c hc hder.tagged).imp hder.wellFormed hder.void

/-- Settles O60: `step_derived`, of which provenance is a part. -/
theorem provenanceMonotone : Obligations.ProvenanceMonotone := by
  intro s t hs h d hd ht
  obtain ⟨c, hc, hder⟩ := step_derived hs h hd ht
  exact ⟨c, hc, hder.tagged, hder.within⟩

end Sys2Proof.Machine
end

section
/-! SUPPORT. The step (41_control_transfer.md section 1, 60_exceptions.md sections 3 and 4): it always has a
next state, which interrupt it takes, what its fetch checks, and which instruction it runs. -/

namespace Sys2Proof.Machine

/-! ## Every instruction has a next state (R484, R496) -/

section Total
variable (s : State)

theorem opM_total (i : Instr) (f : Word → Word → Word) (rd rs1 rs2 : Reg) :
    ∃ t, opM i f rd rs1 rs2 s = .next t := by
  unfold opM
  split <;> exact ⟨_, rfl⟩

theorem opCjalr_total (len : Word) (cd cs1 : Reg) (imm : Word) :
    ∃ t, opCjalr len cd cs1 imm s = .next t := by
  unfold opCjalr
  split <;> exact ⟨_, rfl⟩

theorem opBranch_total (cond : Word → Word → Bool) (len : Word) (rs1 rs2 : Reg) (off : Word) :
    ∃ t, opBranch cond len rs1 rs2 off s = .next t := by
  unfold opBranch
  split <;> exact ⟨_, rfl⟩

theorem opLoad_total (k : LoadKind) (len : Word) (rd cs1 : Reg) (imm : Word) :
    ∃ t, opLoad k len rd cs1 imm s = .next t := by
  unfold opLoad
  split <;> exact ⟨_, rfl⟩

theorem opLoadCap_total (len : Word) (cd cs1 : Reg) (imm : Word) :
    ∃ t, opLoadCap len cd cs1 imm s = .next t := by
  unfold opLoadCap
  split <;> exact ⟨_, rfl⟩

theorem opStore_total (n : Nat) (len : Word) (rs2 cs1 : Reg) (imm : Word) :
    ∃ t, opStore n len rs2 cs1 imm s = .next t := by
  unfold opStore
  split <;> exact ⟨_, rfl⟩

theorem opStoreCap_total (len : Word) (cs2 cs1 : Reg) (imm : Word) :
    ∃ t, opStoreCap len cs2 cs1 imm s = .next t := by
  unfold opStoreCap
  split <;> exact ⟨_, rfl⟩

theorem opCsr_total (i : Instr) (addr : BitVec 12) (rd : Reg) (writes : Bool) (f : Word → Word) :
    ∃ t, opCsr i addr rd writes f s = .next t := by
  unfold opCsr
  split <;> exact ⟨_, rfl⟩

theorem execMret_total : ∃ t, execMret s = .next t := by
  unfold execMret
  split <;> exact ⟨_, rfl⟩

theorem execCspecialrw_total (cd : Reg) (n : Scr) (cs1 : Reg) :
    ∃ t, execCspecialrw cd n cs1 s = .next t := by
  unfold execCspecialrw
  split <;> exact ⟨_, rfl⟩

theorem exec_total (i : Instr) : ∃ t, exec i s = .next t := by
  cases i with
  | mul | mulh | mulhsu | mulhu | div | divu | rem | remu => exact opM_total ..
  | cjalr | rvcJr | rvcJalr => exact opCjalr_total ..
  | beq | bne | blt | bltu | rvcBeqz | rvcBnez => exact opBranch_total ..
  | bge => exact opBranch_total s (fun a b => !a.slt b) ..
  | bgeu => exact opBranch_total s (fun a b => !a.ult b) ..
  | clb | clh | clw | clbu | clhu | rvcLw | rvcLwsp => exact opLoad_total ..
  | clc | rvcLc | rvcLcsp => exact opLoadCap_total ..
  | csb | csh | csw | rvcSw | rvcSwsp => exact opStore_total ..
  | csc | rvcSc | rvcScsp => exact opStoreCap_total ..
  | csrrw | csrrs | csrrc | csrrwi | csrrsi | csrrci => exact opCsr_total ..
  | mret => exact execMret_total s
  | cspecialrw => exact execCspecialrw_total ..
  | _ => exact ⟨_, rfl⟩

end Total

/-- Settles O9: an interrupt, a fetch exception and an illegal instruction are traps, and every
instruction has a next state. -/
theorem everyStepHasANextState : Obligations.EveryStepHasANextState := by
  intro s
  unfold step State.act
  split
  · exact ⟨_, rfl⟩
  · split
    · exact ⟨_, rfl⟩
    · split
      · exact ⟨_, rfl⟩
      · exact exec_total _ _

/-! ## The decoded instruction -/

section Step
variable {s : State}

theorem act_of_fetch_ok {w : Encoded} {i : Instr} (hirq : s.interrupt = none)
    (hfetch : s.fetch = .ok w) (hd : decode w.bytes = .ok i) : s.act = exec i s := by
  simp [State.act, hirq, hfetch, hd]

theorem act_of_decode_error {w : Encoded} {e : DecodeError} (hirq : s.interrupt = none)
    (hfetch : s.fetch = .ok w) (hd : decode w.bytes = .error e) :
    s.act = raise (.illegal w.bits) s := by
  simp [State.act, hirq, hfetch, hd]

end Step

/-- Settles O4: the two branches of the step after a fetch that succeeds. -/
theorem stepRunsTheDecodedInstruction : Obligations.StepRunsTheDecodedInstruction := by
  intro s w hirq hfetch
  refine ⟨fun i hd => act_of_fetch_ok (s := s.tick) hirq hfetch hd, fun e hd => ?_⟩
  rw [step, act_of_decode_error (s := s.tick) hirq hfetch hd]
  exact raise_illegal_traps w.bits s.tick

/-! ## Interrupts (R470, R471) -/

section Interrupts

theorem foldl_or_keeps {l : List Nat} {w : Word} {k : Nat} (h : w.getLsbD k = true) :
    (l.foldl (fun w k => w ||| (1#32 <<< k)) w).getLsbD k = true := by
  induction l generalizing w with
  | nil => exact h
  | cons j l ih => exact ih (by rw [BitVec.getLsbD_or, h, Bool.true_or])

theorem getLsbD_wordOfBits {l : List Nat} {k : Nat} (h : k ∈ l) (hk : k < 32) :
    (wordOfBits l).getLsbD k = true := by
  suffices ∀ w : Word, (l.foldl (fun w k => w ||| (1#32 <<< k)) w).getLsbD k = true from this 0
  induction l with
  | nil => cases h
  | cons j l ih =>
    intro w
    rcases List.mem_cons.1 h with rfl | h
    · have hbit : (1#32 <<< k).getLsbD k = true := by
        simp only [BitVec.getLsbD_shiftLeft]
        simp [hk]
      exact foldl_or_keeps (w := w ||| (1#32 <<< k)) (by rw [BitVec.getLsbD_or, hbit, Bool.or_true])
    · exact ih h _

/-- The interrupts that have a priority are those that exist in `mip` and `mie`. -/
theorem getLsbD_irqMask {p : Platform} {k : Nat} (h : k ∈ irqOrder p) :
    (irqMask p).getLsbD k = true := by
  rw [irqMask, BitVec.getLsbD_or]
  rcases List.mem_append.1 h with h | h
  · have hk : k < 32 := by
      obtain ⟨n, -, rfl⟩ := List.mem_map.1 h
      omega
    rw [getLsbD_wordOfBits h hk, Bool.or_true]
  · have hmask : (0x888#32).getLsbD k = true := by
      simp only [List.mem_cons, List.not_mem_nil, or_false] at h
      rcases h with rfl | rfl | rfl <;> rfl
    rw [hmask, Bool.true_or]

variable {s : State}

theorem pendingEnabled_getLsbD {k : Nat} (h : k ∈ irqOrder s.platform) :
    s.pendingEnabled.getLsbD k = (s.mip &&& s.mie).getLsbD k := by
  rw [State.pendingEnabled, BitVec.getLsbD_and, getLsbD_irqMask h, Bool.and_true]

theorem interrupt_eq_none_iff :
    s.interrupt = none ↔
      s.mstatusMie = false ∨ ∀ k, k ∈ irqOrder s.platform → (s.mip &&& s.mie).getLsbD k = false := by
  have hfind : (irqOrder s.platform).find? (fun k => s.pendingEnabled.getLsbD k) = none ↔
      ∀ k, k ∈ irqOrder s.platform → (s.mip &&& s.mie).getLsbD k = false := by
    rw [List.find?_eq_none]
    refine forall₂_congr fun k hk => ?_
    rw [pendingEnabled_getLsbD hk, Bool.not_eq_true]
  cases hm : s.mstatusMie <;> simp [State.interrupt, hm, hfind]

/-- The first interrupt in the order that is pending and enabled is the one to take. -/
theorem interrupt_eq_some {before after : List Nat} {k : Nat}
    (horder : irqOrder s.platform = before ++ k :: after) (hmie : s.mstatusMie = true)
    (hbefore : ∀ j, j ∈ before → (s.mip &&& s.mie).getLsbD j = false)
    (hk : (s.mip &&& s.mie).getLsbD k = true) : s.interrupt = some k := by
  have hmem {j : Nat} (hj : j ∈ before ++ k :: after) : j ∈ irqOrder s.platform := horder ▸ hj
  rw [State.interrupt, if_pos hmie, horder, List.find?_eq_some_iff_append]
  refine ⟨?_, before, after, rfl, fun j hj => ?_⟩
  · rw [pendingEnabled_getLsbD (hmem (by simp)), hk]
  · rw [pendingEnabled_getLsbD (hmem (by simp [hj])), hbefore j hj]
    rfl

theorem step_of_interrupt {k : Nat} (h : s.interrupt = some k) :
    step s = .next (s.tick.takeInterrupt k) := by
  have htick : s.tick.interrupt = some k := h
  simp [step, State.act, htick]

/-- An interrupt, in the shape of R480. -/
theorem takeInterrupt_traps (k : Nat) (s : State) :
    Traps (.next (s.takeInterrupt k)) s (s.pccVal s.pc) (0x80000000#32 ||| BitVec.ofNat 32 k) 0 :=
  ⟨_, rfl, rfl, rfl, rfl, rfl, rfl, rfl, rfl, fun _ => rfl, ⟨fun _ => rfl, fun _ => rfl⟩, rfl, rfl,
    rfl, rfl, ⟨rfl, rfl, rfl, rfl, rfl, rfl, rfl, rfl⟩, rfl, rfl, rfl, rfl⟩

end Interrupts

/-- Settles O6: `find?` in the order of priority answers the first interrupt pending and enabled. -/
theorem interruptsByPriority : Obligations.InterruptsByPriority := by
  intro s
  refine ⟨rfl, interrupt_eq_none_iff, fun before after k horder hmie hbefore hk => ?_⟩
  rw [step_of_interrupt (interrupt_eq_some horder hmie hbefore hk)]
  exact takeInterrupt_traps k s.tick

/-! ## The checks of a fetch (R280) -/

section Fetch
variable {s : State}

theorem fetch_of_checkFetch {e : Exc} (h : s.checkFetch = some e) : s.fetch = .error e := by
  simp [State.fetch, h]

theorem checkFetch_of_sealed (ht : s.pcc.tag = true) (h : s.pcc.isSealed = true) :
    s.checkFetch = some (.cheri .seal .pcc) := by
  simp [State.checkFetch, ht, h]

theorem checkFetch_of_not_exec (ht : s.pcc.tag = true) (hs : s.pcc.isSealed = false)
    (h : s.pcc.isExec = false) : s.checkFetch = some (.cheri .ex .pcc) := by
  simp [State.checkFetch, ht, hs, h]

/-- PCC may be fetched through: tagged, unsealed and executable. -/
def State.canFetch (s : State) : Prop :=
  s.pcc.tag = true ∧ s.pcc.isSealed = false ∧ s.pcc.isExec = true

theorem State.canFetch.checkFetch_eq (h : s.canFetch) : s.checkFetch = s.checkParcel s.pc.toNat := by
  obtain ⟨ht, hs, hx⟩ := h
  simp [State.checkFetch, ht, hs, hx]

theorem checkParcel_of_out {a : Nat} (h : a < s.pcc.base ∨ s.pcc.top < a + 2) :
    s.checkParcel a = some (.cheri .bounds .pcc) := by
  have hin : s.pcc.inBounds a 2 = false := decide_eq_false (by omega)
  simp [State.checkParcel, hin]

theorem checkParcel_of_unmapped {a : Nat} (hb : s.pcc.base ≤ a) (ht : a + 2 ≤ s.pcc.top)
    (hm : mapped s.platform a = none) :
    s.checkParcel a = some (.fetchAccessFault (BitVec.ofNat 32 a)) := by
  have hin : s.pcc.inBounds a 2 = true := decide_eq_true ⟨hb, ht⟩
  simp [State.checkParcel, hin, hm]

theorem checkParcel_of_in {a : Nat} (hb : s.pcc.base ≤ a) (ht : a + 2 ≤ s.pcc.top)
    (hm : mapped s.platform a ≠ none) : s.checkParcel a = none := by
  have hin : s.pcc.inBounds a 2 = true := decide_eq_true ⟨hb, ht⟩
  simp [State.checkParcel, hin, hm]

/-- Once the first parcel has passed its check, its low bits decide whether there is a second. -/
theorem fetch_of_short (h : s.checkFetch = none)
    (hq : hQuadrant (s.fetchParcel s.pc.toNat) ≠ 3#2) :
    s.fetch = .ok (.parcel (s.fetchParcel s.pc.toNat)) := by
  simp [State.fetch, h, parcelLength, hq]

theorem fetch_of_second_error {e : Exc} (h : s.checkFetch = none)
    (hq : hQuadrant (s.fetchParcel s.pc.toNat) = 3#2)
    (h2 : s.checkParcel (s.pc.toNat + 2) = some e) : s.fetch = .error e := by
  simp [State.fetch, h, parcelLength, hq, h2]

theorem fetch_of_long (h : s.checkFetch = none)
    (hq : hQuadrant (s.fetchParcel s.pc.toNat) = 3#2)
    (h2 : s.checkParcel (s.pc.toNat + 2) = none) :
    s.fetch = .ok (.word (s.fetchParcel (s.pc.toNat + 2) ++ s.fetchParcel s.pc.toNat)) := by
  simp [State.fetch, h, parcelLength, hq, h2]

/-- The exception of a fetch bounds violation: MEPCC untagged (R481), `mtval` 0x401. -/
theorem raise_fetchBounds_traps (s : State) :
    Traps (raise (.cheri .bounds .pcc) s) s { s.pccVal s.pc with tag := false } 0x1C 0x401 := by
  have hepcc : s.exceptionPcc (.cheri .bounds .pcc) = { s.pccVal s.pc with tag := false } := by
    simp [State.exceptionPcc, Exc.isFetchBounds]
  have h := raise_traps (.cheri .bounds .pcc) s
  rw [hepcc] at h
  exact h

theorem raise_fetchFault_traps (a : Word) (s : State) :
    Traps (raise (.fetchAccessFault a) s) s (s.pccVal s.pc) 1 a := by
  have h := raise_traps (.fetchAccessFault a) s
  rw [exceptionPcc_eq (by simp)] at h
  exact h

theorem ofNat_toNat_add (a : Word) (n : Nat) : BitVec.ofNat 32 (a.toNat + n) = a + BitVec.ofNat 32 n := by
  rw [BitVec.ofNat_add, BitVec.ofNat_toNat, BitVec.setWidth_eq]

end Fetch

/-- Settles O7: the checks in order; each that fails is the exception of the fetch, and so of the
step. -/
theorem fetchChecksInOrder : Obligations.FetchChecksInOrder := by
  intro s hirq second untagged
  obtain ⟨u, hu⟩ : ∃ u, u = s.tick := ⟨_, rfl⟩
  have hstep {e : Exc} (h : u.fetch = .error e) : step s = raise e u := by
    subst hu
    exact act_of_fetch_error (s := s.tick) hirq h
  have hpc : u.pc = s.pc := hu ▸ rfl
  have hpcc : u.pcc = s.pcc := hu ▸ rfl
  have hplatform : u.platform = s.platform := hu ▸ rfl
  have hval : u.pccVal u.pc = s.pccVal s.pc := hu ▸ rfl
  have hsecond : second = true ↔ hQuadrant (u.fetchParcel u.pc.toNat) = 3#2 := by
    rw [hu, decide_eq_true_iff]
    rfl
  rw [← hu]
  clear_value second
  subst untagged
  rw [← hpcc, ← hplatform, ← hval, ← hpc]
  split_ifs with htag hsealed hexec hout hmapped hout2 hmapped2 hlong
  · rw [hstep (fetch_of_untagged htag)]
    exact raise_pcc_trapsCheri (by decide) u
  all_goals rw [Bool.not_eq_false] at htag
  · rw [hstep (fetch_of_checkFetch (checkFetch_of_sealed htag hsealed))]
    exact raise_pcc_trapsCheri (by decide) u
  all_goals rw [Bool.not_eq_true] at hsealed
  · rw [hstep (fetch_of_checkFetch (checkFetch_of_not_exec htag hsealed hexec))]
    exact raise_pcc_trapsCheri (by decide) u
  all_goals rw [Bool.not_eq_false] at hexec
  all_goals have hfirst := State.canFetch.checkFetch_eq ⟨htag, hsealed, hexec⟩
  · rw [hstep (fetch_of_checkFetch (hfirst.trans (checkParcel_of_out hout)))]
    exact raise_fetchBounds_traps u
  all_goals rw [not_or, Nat.not_lt, Nat.not_lt] at hout
  all_goals obtain ⟨hbase, htop⟩ := hout
  · rw [hstep (fetch_of_checkFetch (hfirst.trans (checkParcel_of_unmapped hbase htop hmapped))),
      BitVec.ofNat_toNat, BitVec.setWidth_eq]
    exact raise_fetchFault_traps u.pc u
  all_goals rw [checkParcel_of_in hbase htop hmapped] at hfirst
  · obtain ⟨hlong, hend⟩ := hout2
    rw [hstep (fetch_of_second_error hfirst (hsecond.1 hlong) (checkParcel_of_out (by omega)))]
    exact raise_fetchBounds_traps u
  all_goals rw [not_and, Nat.not_lt] at hout2
  · obtain ⟨hlong, hmap⟩ := hmapped2
    have hend := hout2 hlong
    rw [hstep (fetch_of_second_error hfirst (hsecond.1 hlong)
      (checkParcel_of_unmapped (by omega) (by omega) hmap)), ofNat_toNat_add]
    exact raise_fetchFault_traps (u.pc + 2) u
  all_goals rw [not_and] at hmapped2
  · have hend := hout2 hlong
    exact ⟨_, fetch_of_long hfirst (hsecond.1 hlong)
      (checkParcel_of_in (by omega) (by omega) (hmapped2 hlong)), rfl⟩
  · exact ⟨_, fetch_of_short hfirst (hlong ∘ hsecond.2), rfl⟩

/-! ## Placed instructions (R122, R152) -/

section Placed
variable {s : State}

/-- A byte that memory held at the last FENCE.I, and that every store since then that wrote it wrote
again, is what a fetch sees, whichever of the stores it sees. -/
theorem replay_read_same {p : Platform} {seen : Nat → UnfencedStore → Bool} {m : Memory}
    {l : List UnfencedStore} {b : Nat} {v : Byte} (hm : m.read b = v)
    (hl : ∀ st, st ∈ l → ∀ j, j < st.bytes.length → st.addr + j = b → st.bytes.getD j 0 = v) :
    (replay p seen m l).read b = v := by
  induction l with
  | nil => exact hm
  | cons st older ih =>
    have ih := ih fun o ho => hl o (by simp [ho])
    rw [replay_cons]
    split
    · rw [writeBytes_read]
      split
      · exact hl st (by simp) (b - st.addr) (by omega) (by omega)
      · exact ih
    · exact ih

/-- Every fetch of the byte `k` of the instruction placed at `pc` sees it. -/
def State.Placed (s : State) (bytes : List Byte) : Prop :=
  ∀ k, k < bytes.length → mapped s.platform (s.pc.toNat + k) = some .ram ∧
    ∀ a, (s.fetchMem a).read (s.pc.toNat + k) = bytes.getD k 0

/-- A parcel of the placed instruction. -/
theorem State.Placed.fetchParcel_eq {bytes : List Byte} (h : s.Placed bytes) {k : Nat}
    (hk : k + 1 < bytes.length) :
    s.fetchParcel (s.pc.toNat + k) = bytes.getD (k + 1) 0 ++ bytes.getD k 0 := by
  have hbyte (j : Nat) (hj : j < bytes.length) (a : Nat) :
      State.byteAt { s with mem := s.fetchMem a } .fetch (s.pc.toNat + j) = bytes.getD j 0 := by
    obtain ⟨hmap, hread⟩ := h j hj
    exact (byteAt_of_ram (s := { s with mem := s.fetchMem a }) (by simp [isDevice, hmap])).trans
      (hread a)
  rw [State.fetchParcel, State.newParcel, Nat.add_assoc, hbyte (k + 1) hk, hbyte k (by omega)]

theorem Encoded.bytes_length (e : Encoded) : e.bytes.length = e.length := by
  cases e <;> rfl

/-- The encoding of a well-formed instruction, placed at `pc` inside PCC, is what a fetch gets. -/
theorem State.Placed.fetch_eq {i : Instr} (hwf : i.wellFormed = true) (hpcc : s.canFetch)
    (h : s.Placed (encode i).bytes) (hbase : s.pcc.base ≤ s.pc.toNat)
    (htop : s.pc.toNat + (encode i).length ≤ s.pcc.top) : s.fetch = .ok (encode i) := by
  have hin (k : Nat) (hk : k + 2 ≤ (encode i).length) : s.checkParcel (s.pc.toNat + k) = none := by
    refine checkParcel_of_in (by omega) (by omega) ?_
    rw [(h k (by rw [Encoded.bytes_length]; omega)).1]
    nofun
  cases he : encode i with
  | parcel p =>
    rw [he] at h hin
    have hfirst := hpcc.checkFetch_eq.trans (hin 0 (by decide : 0 + 2 ≤ 2))
    have hparcel : s.fetchParcel s.pc.toNat = p :=
      (h.fetchParcel_eq (k := 0) (by decide : 0 + 1 < 2)).trans (parcel_of_bytes p)
    have hq := quadrant_of_decodeParcel (decodeParcel_of_encode he hwf)
    rw [fetch_of_short hfirst (hparcel ▸ hq), hparcel]
  | word w =>
    rw [he] at h hin
    have hfirst := hpcc.checkFetch_eq.trans (hin 0 (by decide : 0 + 2 ≤ 4))
    have hlow : s.fetchParcel s.pc.toNat = w.extractLsb' 8 8 ++ w.extractLsb' 0 8 :=
      h.fetchParcel_eq (k := 0) (by decide : 0 + 1 < 4)
    have hhigh : s.fetchParcel (s.pc.toNat + 2) = w.extractLsb' 24 8 ++ w.extractLsb' 16 8 :=
      h.fetchParcel_eq (k := 2) (by decide : 2 + 1 < 4)
    have hq : hQuadrant (s.fetchParcel s.pc.toNat) = 3#2 := by
      rw [hlow, firstParcel_of_word, hQuadrant_of_word]
      exact (opcode_of_decodeWord (decodeWord_of_encode he)).1
    rw [fetch_of_long hfirst hq (hin 2 (by decide : 2 + 2 ≤ 4)), hlow, hhigh, word_of_halves]

end Placed

/-- Settles O5: the fetch gets the encoding (`State.Placed.fetch_eq`), which decodes to the
instruction (O1). -/
theorem placedInstructionRuns : Obligations.PlacedInstructionRuns := by
  intro s i hwf hirq htag hsealed hexec hbase htop hbytes
  have hplaced : s.tick.Placed (encode i).bytes := fun k hk => by
    rw [Encoded.bytes_length] at hk
    obtain ⟨hmap, hcode, hstores⟩ := hbytes k hk
    exact ⟨hmap, fun a => replay_read_same hcode hstores⟩
  have hd := decodeOfEncode i [] hwf
  rw [List.append_nil] at hd
  exact act_of_fetch_ok (s := s.tick) hirq
    (hplaced.fetch_eq hwf ⟨htag, hsealed, hexec⟩ hbase htop) hd

end Sys2Proof.Machine
end

section
/-! SUPPORT. Integer computation (40_integer.md, 46_compressed.md): what each word operation is in exact
arithmetic, and the result of each instruction. -/

namespace Sys2Proof.Machine

/-! ## Word operations in exact arithmetic -/

section Words
variable (a b : Word)

theorem add_eq_ofInt : a + b = BitVec.ofInt 32 (a.toInt + b.toInt) := by
  rw [BitVec.ofInt_add, BitVec.ofInt_toInt, BitVec.ofInt_toInt]

theorem add_eq_ofNat : a + b = BitVec.ofNat 32 (a.toNat + b.toNat) := by
  rw [BitVec.ofNat_add, BitVec.ofNat_toNat, BitVec.ofNat_toNat, BitVec.setWidth_eq, BitVec.setWidth_eq]

theorem sub_eq_ofInt : a - b = BitVec.ofInt 32 ((a.toNat : Int) - (b.toNat : Int)) := by
  apply BitVec.eq_of_toNat_eq
  rw [BitVec.toNat_sub, BitVec.toNat_ofInt]
  omega

theorem toInt_immediate {n : Nat} (imm : BitVec n) (h : n ≤ 32) :
    (imm.signExtend 32).toInt = imm.toInt := BitVec.toInt_signExtend_of_le h

theorem sltWord_eq : sltWord a b = if a.toInt < b.toInt then 1 else 0 := by
  rw [sltWord, wordOfBool, BitVec.slt]
  exact if_congr decide_eq_true_iff rfl rfl

theorem sltuWord_eq : sltuWord a b = if a.toNat < b.toNat then 1 else 0 := by
  rw [sltuWord, wordOfBool, BitVec.ult]
  exact if_congr decide_eq_true_iff rfl rfl

theorem shiftAmount_eq : shiftAmount b = b.toNat % 32 := by
  rw [shiftAmount, BitVec.extractLsb'_toNat, Nat.shiftRight_zero]

theorem shiftAmount_shamtWord (n : BitVec 5) : shiftAmount (shamtWord n) = n.toNat := by
  have hn := n.isLt
  rw [shiftAmount_eq, shamtWord, BitVec.toNat_setWidth]
  omega

theorem sllWord_eq : sllWord a b = BitVec.ofNat 32 (a.toNat * 2 ^ shiftAmount b) := by
  apply BitVec.eq_of_toNat_eq
  rw [sllWord, BitVec.toNat_shiftLeft, BitVec.toNat_ofNat, Nat.shiftLeft_eq]

theorem srlWord_eq : srlWord a b = BitVec.ofNat 32 (a.toNat / 2 ^ shiftAmount b) := by
  have hlt : a.toNat / 2 ^ shiftAmount b < 2 ^ 32 := (Nat.div_le_self _ _).trans_lt a.isLt
  apply BitVec.eq_of_toNat_eq
  rw [srlWord, BitVec.toNat_ushiftRight, BitVec.toNat_ofNat, Nat.shiftRight_eq_div_pow,
    Nat.mod_eq_of_lt hlt]

theorem sraWord_eq : sraWord a b = BitVec.ofInt 32 (a.toInt / 2 ^ shiftAmount b) := by
  rw [sraWord, BitVec.sshiftRight, Int.shiftRight_eq_div_pow]
  norm_cast

/-- The upper half of an exact product (R247 to R249). -/
theorem highWord_eq (v : Int) : highWord v = (BitVec.ofInt 64 v).extractLsb' 32 32 := by
  apply BitVec.eq_of_toNat_eq
  rw [highWord, BitVec.toNat_ofInt, BitVec.extractLsb'_toNat, BitVec.toNat_ofInt,
    Nat.shiftRight_eq_div_pow]
  omega

theorem setWidth_eq_ofInt : a.setWidth 64 = BitVec.ofInt 64 (a.toNat : Int) := by
  rw [BitVec.ofInt_natCast, BitVec.ofNat_toNat]

theorem mulhWord_eq : mulhWord a b = (a.signExtend 64 * b.signExtend 64).extractLsb' 32 32 := by
  rw [mulhWord, highWord_eq, BitVec.ofInt_mul]
  rfl

theorem mulhsuWord_eq : mulhsuWord a b = (a.signExtend 64 * b.setWidth 64).extractLsb' 32 32 := by
  rw [mulhsuWord, highWord_eq, BitVec.ofInt_mul, setWidth_eq_ofInt]
  rfl

theorem mulhuWord_eq : mulhuWord a b = (a.setWidth 64 * b.setWidth 64).extractLsb' 32 32 := by
  rw [mulhuWord, highWord_eq, BitVec.ofInt_mul, setWidth_eq_ofInt, setWidth_eq_ofInt]

theorem mulWord_eq : mulWord a b = BitVec.ofNat 32 (a.toNat * b.toNat) := by
  apply BitVec.eq_of_toNat_eq
  rw [mulWord, BitVec.toNat_mul, BitVec.toNat_ofNat]

/-- The one quotient that does not fit is that of the least number by -1 (R250). -/
theorem divWord_eq : divWord a b =
    if b = 0 then 0xFFFFFFFF
    else if (a == 0x80000000#32 && b == 0xFFFFFFFF#32) = true then 0x80000000
    else BitVec.ofInt 32 (a.toInt.tdiv b.toInt) := by
  rw [divWord]
  split_ifs with hb hover
  · rfl
  · rw [Bool.and_eq_true, beq_iff_eq, beq_iff_eq] at hover
    obtain ⟨rfl, rfl⟩ := hover
    rfl
  · rfl

theorem remWord_eq : remWord a b =
    if b = 0 then a
    else if (a == 0x80000000#32 && b == 0xFFFFFFFF#32) = true then 0
    else BitVec.ofInt 32 (a.toInt - a.toInt.tdiv b.toInt * b.toInt) := by
  rw [remWord]
  split_ifs with hb hover
  · rfl
  · rw [Bool.and_eq_true, beq_iff_eq, beq_iff_eq] at hover
    obtain ⟨rfl, rfl⟩ := hover
    rfl
  · rw [Int.tmod_def, Int.mul_comm]

theorem immU_eq (imm : BitVec 20) : immU imm = BitVec.ofNat 32 (imm.toNat * 4096) := by
  have hi := imm.isLt
  apply BitVec.eq_of_toNat_eq
  rw [immU, toNat_append_zeros, BitVec.toNat_ofNat]
  omega

end Words

/-! ## Results -/

/-- An integer result, in the form the statement gives it. -/
theorem writesInt_of_eq {s : State} {len : Word} {d : Reg} {v w : Word} (h : v = w) :
    WritesInt (finishX len d v s) s d w len := h ▸ finishX_writesInt len d v s

/-- Settles O11: each form writes what its word operation gives. -/
theorem integerImmediateResults : Obligations.IntegerImmediateResults := by
  intro s rd rs1 upper imm n a
  have himm : (immI imm).toInt = imm.toInt := toInt_immediate imm (by decide)
  have hshamt := shiftAmount_shamtWord n
  refine ⟨writesInt_of_eq (immU_eq upper), writesInt_of_eq ?_, writesInt_of_eq ?_,
    writesInt_of_eq (sltuWord_eq ..), finishX_writesInt .., finishX_writesInt ..,
    finishX_writesInt .., writesInt_of_eq ?_, writesInt_of_eq ?_, writesInt_of_eq ?_⟩
  · rw [← himm]
    exact add_eq_ofInt ..
  · rw [← himm]
    exact sltWord_eq ..
  · rw [← hshamt]
    exact sllWord_eq ..
  · rw [← hshamt]
    exact srlWord_eq ..
  · rw [← hshamt]
    exact sraWord_eq ..

/-- Settles O12: as O11, with both operands from registers. -/
theorem integerRegisterResults : Obligations.IntegerRegisterResults := by
  intro s rd rs1 rs2 a b
  have hshift : b.toNat % 32 = shiftAmount b := (shiftAmount_eq b).symm
  rw [hshift]
  exact ⟨writesInt_of_eq (add_eq_ofNat ..), writesInt_of_eq (sub_eq_ofInt ..),
    writesInt_of_eq (sllWord_eq ..), writesInt_of_eq (sltWord_eq ..),
    writesInt_of_eq (sltuWord_eq ..), finishX_writesInt .., writesInt_of_eq (srlWord_eq ..),
    writesInt_of_eq (sraWord_eq ..), finishX_writesInt .., finishX_writesInt ..⟩

section MulDiv
variable {s : State} {i : Instr} {f : Word → Word → Word} {rd rs1 rs2 : Reg}

theorem opM_illegal (h : s.platform.hasM = false) :
    TrapsIllegal (opM i f rd rs1 rs2 s) s (encode i).bits := by
  rw [opM, h]
  exact raise_illegal_traps _ s

theorem opM_writesInt {v : Word} (h : s.platform.hasM = true) (hv : f (s.x rs1) (s.x rs2) = v) :
    WritesInt (opM i f rd rs1 rs2 s) s rd v 4 := by
  rw [opM, if_pos h]
  exact writesInt_of_eq hv

end MulDiv

/-- Settles O13: without `HAS_M` every form is illegal, with it the result is that of its word
operation. -/
theorem multiplyDivideResults : Obligations.MultiplyDivideResults := by
  intro s rd rs1 rs2 a b overflow
  refine ⟨fun hm i hi => ?_, fun hm => ⟨opM_writesInt hm (mulWord_eq ..),
    opM_writesInt hm (mulhWord_eq ..), opM_writesInt hm (mulhsuWord_eq ..),
    opM_writesInt hm (mulhuWord_eq ..), opM_writesInt hm (divWord_eq ..), opM_writesInt hm rfl,
    opM_writesInt hm (remWord_eq ..), opM_writesInt hm rfl⟩⟩
  simp only [List.mem_cons, List.not_mem_nil, or_false] at hi
  rcases hi with rfl | rfl | rfl | rfl | rfl | rfl | rfl | rfl <;> exact opM_illegal hm

/-- An integer write to `c0` only moves on (R32). -/
theorem finishX_c0_movesOnly (len v : Word) (s : State) :
    MovesOnly (finishX len .c0 v s) s (s.pc + len) := pc_movesOnly s _

theorem immU_imm6Upper_eq (imm : BitVec 6) :
    immU (imm6Upper imm) = BitVec.ofInt 32 (imm.toInt * 4096) := by
  have hval : (imm6Upper imm).toInt = imm.toInt := BitVec.toInt_signExtend_of_le (by decide)
  have hcases := BitVec.toInt_eq_toNat_cond (imm6Upper imm)
  have hlt := (imm6Upper imm).isLt
  rw [immU_eq]
  apply BitVec.eq_of_toNat_eq
  rw [BitVec.toNat_ofNat, BitVec.toNat_ofInt, ← hval]
  split at hcases <;> omega

/-- Settles O14: the compressed forms are the same operations with length 2. -/
theorem compressedIntegerResults : Obligations.CompressedIntegerResults := by
  intro s rd rs2 r q imm n
  have himm : (imm6 imm).toInt = imm.toInt := toInt_immediate imm (by decide)
  have hshamt := shiftAmount_shamtWord n
  refine ⟨finishX_c0_movesOnly 2 _ s, writesInt_of_eq ?_, writesInt_of_eq ?_,
    writesInt_of_eq (immU_imm6Upper_eq imm), writesInt_of_eq ?_, writesInt_of_eq ?_,
    finishX_writesInt .., writesInt_of_eq (sub_eq_ofInt ..), finishX_writesInt ..,
    finishX_writesInt .., finishX_writesInt .., writesInt_of_eq ?_,
    writesInt_of_eq (add_eq_ofNat ..)⟩
  · rw [← himm]
    exact add_eq_ofInt ..
  · exact BitVec.zero_add _
  · rw [← hshamt]
    exact srlWord_eq ..
  · rw [← hshamt]
    exact sraWord_eq ..
  · rw [← hshamt]
    exact sllWord_eq ..

end Sys2Proof.Machine
end

section
/-! SUPPORT. Capability modification and inspection (44_capability_modify.md, 45_capability_inspect.md):
the result of each instruction. -/

namespace Sys2Proof.Machine

section CapResults
variable {s : State}

/-- A capability result, in the form the statement gives it. -/
theorem writesCap_of_eq {len : Word} {d : Reg} {v w : Cap} (h : v = w) :
    WritesCap (finishC len d v s) s d w len := h ▸ finishC_writesCap len d v s

/-! ## Addresses -/

/-- An address change by an offset that the statement writes in another form. -/
theorem withAddr_writesCap {len : Word} {d : Reg} {c : Cap} {a b : Word} (h : a = b) :
    WritesCap (finishC len d (c.withAddr a) s) s d
      { c with
        a := b
        tag := c.tag && !c.isSealed &&
          decide ({ c with a := b }.base = c.base ∧ { c with a := b }.top = c.top) } len :=
  writesCap_of_eq (by rw [h]; rfl)

/-- Zeros appended below an immediate scale the number it is. -/
theorem signExtend_append_zeros {n k : Nat} (x : BitVec n) :
    (x ++ 0#k).signExtend 32 = BitVec.ofInt 32 (2 ^ k * x.toInt) := by
  rw [BitVec.signExtend, BitVec.toInt_append_zero]

theorem setWidth_append_zeros_eq_ofNat {n k : Nat} (x : BitVec n) :
    (x ++ 0#k).setWidth 32 = BitVec.ofNat 32 (2 ^ k * x.toNat) := by
  apply BitVec.eq_of_toNat_eq
  rw [BitVec.toNat_setWidth, toNat_append_zeros, BitVec.toNat_ofNat, Nat.mul_comm]

end CapResults

/-- Settles O44: each form is `withAddr` of its source at the address the statement gives. -/
theorem addressChangeResults : Obligations.AddressChangeResults := by
  intro s cd cs1 rs2 r imm upper u n moved c
  refine ⟨withAddr_writesCap rfl, withAddr_writesCap rfl, withAddr_writesCap rfl,
    withAddr_writesCap ?_, withAddr_writesCap ?_, withAddr_writesCap ?_, withAddr_writesCap ?_⟩
  · rw [immUC, signExtend_append_zeros upper]
    rfl
  · rw [immUC, signExtend_append_zeros upper]
    rfl
  · rw [immAddi4spn, setWidth_append_zeros_eq_ofNat]
    rfl
  · rw [immAddi16sp, signExtend_append_zeros n]
    rfl

/-- Settles O45: the three forms of `capSetBounds`, their tags by its definition. -/
theorem setBoundsResults : Obligations.SetBoundsResults := by
  intro s cd cs1 rs2 imm c fits l lImm
  have himm : immIu imm = lImm := (BitVec.ofNat_toNat 32 imm).symm
  refine ⟨writesCap_of_eq ?_, writesCap_of_eq ?_, writesCap_of_eq ?_⟩
  · simp [capSetBounds, Cap.inBounds, fits, c, l]
  · simp [capSetBounds, Cap.inBounds, fits, c, l]
  · rw [himm]
    simp [capSetBounds, Cap.inBounds, fits, c]

/-! ## Permissions and seals -/

section Seals
variable {c k : Cap}

/-- Nothing but GL is missing from a subset exactly when both are the same set with GL added. -/
theorem dropGl_eq_zero_iff {m n : BitVec 12} (h : n &&& ~~~m = 0) :
    dropPerm (m &&& ~~~n) .gl = 0 ↔ n ||| 1 = m ||| 1 := by
  have hgl : dropPerm (m &&& ~~~n) .gl = (m &&& ~~~n) &&& ~~~1 := rfl
  rw [hgl]
  constructor <;>
  · intro heq
    refine BitVec.eq_of_getLsbD_eq fun i hi => ?_
    have hsub := congrArg (·.getLsbD i) h
    have hbit := congrArg (·.getLsbD i) heq
    simp only [BitVec.getLsbD_and, BitVec.getLsbD_or, BitVec.getLsbD_not, hi, decide_true,
      Bool.true_and, BitVec.ofNat_eq_ofNat, BitVec.getLsbD_zero] at hsub hbit ⊢
    cases hm : m.getLsbD i <;> cases hn : n.getLsbD i <;> simp_all

theorem extractLow_eq_ofNat {n : Nat} (x : Word) : x.extractLsb' 0 n = BitVec.ofNat n x.toNat := by
  rw [BitVec.extractLsb', Nat.shiftRight_zero]

theorem toNat_append_add {m n : Nat} (x : BitVec m) (y : BitVec n) :
    (x ++ y).toNat = x.toNat * 2 ^ n + y.toNat := by
  rw [BitVec.toNat_append, ← Nat.shiftLeft_add_eq_or_of_lt y.isLt, Nat.shiftLeft_eq]

/-- The number that `archotype` is, as the statements write it. -/
theorem Cap.archotype_toNat (c : Cap) : c.archotype.toNat =
    if c.otype = 0 then 0 else if c.isExec then c.otype.toNat else 8 + c.otype.toNat := by
  rw [Cap.archotype]
  split_ifs
  · rfl
  · exact (toNat_append_add ..).trans (by simp)
  · exact toNat_append_add ..

theorem Cap.archotype_word_eq_ofNat (c : Cap) : c.archotype.setWidth 32 = BitVec.ofNat 32
    (if c.otype = 0 then 0 else if c.isExec then c.otype.toNat else 8 + c.otype.toNat) := by
  rw [← Cap.archotype_toNat, BitVec.ofNat_toNat]

theorem namesOtype_eq (c k : Cap) : (k.a == c.archotype.setWidth 32) =
    decide (k.a.toNat =
      if c.otype = 0 then 0 else if c.isExec then c.otype.toNat else 8 + c.otype.toNat) := by
  have hlt := c.archotype.isLt
  rw [← Cap.archotype_toNat, Bool.eq_iff_iff, beq_iff_eq, decide_eq_true_iff, ← BitVec.toNat_inj,
    BitVec.toNat_setWidth, Nat.mod_eq_of_lt (by omega)]

theorem localise_eq (k r : Cap) : localise k r =
    { r with p := if k.has .gl then r.p else encperms (r.perms &&& 0xFFE) } := by
  rw [localise]
  split_ifs <;> rfl

end Seals

/-- Settles O46: `capAndPerm`; with the parameter the two forms of "nothing but GL is removed" agree
because the result's permissions are a subset. -/
theorem andPermResults : Obligations.AndPermResults := by
  intro s cd cs1 rs2 c p
  have hmask : encperms (c.perms &&& (s.x rs2).extractLsb' 0 12) = p := by
    rw [extractLow_eq_ofNat]
  refine ⟨fun hok => writesCap_of_eq ?_, fun hok => writesCap_of_eq ?_⟩
  · simp only [capAndPerm, andPermTag, hok, Cap.setPerms, Bool.false_and, Bool.or_false]
    rw [hmask]
  · have hsub : permsOf p &&& ~~~c.perms = 0 :=
      encperms_subset fun i hi => (Bool.and_eq_true_iff.mp (BitVec.getLsbD_and .. ▸ hi)).1
    have hgl : (dropPerm (c.perms &&& ~~~permsOf p) .gl == 0) =
        (permsOf p ||| 1 == c.perms ||| 1) := by
      rw [Bool.eq_iff_iff, beq_iff_eq, beq_iff_eq]
      exact dropGl_eq_zero_iff hsub
    simp only [capAndPerm, andPermTag, hok, Cap.setPerms, Bool.true_and, ← hgl]
    rw [hmask]
    rfl

/-- Settles O47: `capSeal` and `capUnseal`, with the otype as a number. -/
theorem sealResults : Obligations.SealResults := by
  intro s cd cs1 cs2 c k named allowed otype
  refine ⟨writesCap_of_eq ?_, writesCap_of_eq ?_⟩
  · rw [capSeal, extractLow_eq_ofNat]
    rfl
  · rw [capUnseal, namesOtype_eq, localise_eq]
    rfl

/-! ## Moves and queries -/

section Queries
variable {c d : Cap}

/-- `mkcap` splits a metadata word without loss (R41). -/
theorem high_mkcap (tag : Bool) (h a : Word) : (mkcap tag h a).high = h := by
  refine BitVec.eq_of_getLsbD_eq fun i hi => ?_
  simp only [mkcap, Cap.high, BitVec.getLsbD_append, BitVec.getLsbD_extractLsb', BitVec.getLsbD_ofBool]
  interval_cases i <;> simp

/-- The metadata word as the sum of its fields (R41). -/
theorem Cap.high_eq_ofNat (c : Cap) : c.high = BitVec.ofNat 32
    (c.r.toNat * 2 ^ 31 + c.p.toNat * 2 ^ 25 + c.otype.toNat * 2 ^ 22 + c.e.toNat * 2 ^ 18 +
      c.t.toNat * 2 ^ 9 + c.b.toNat) := by
  have hr : (BitVec.ofBool c.r).toNat = c.r.toNat := BitVec.toNat_ofBool _
  have hsum : c.high.toNat = c.r.toNat * 2 ^ 31 + c.p.toNat * 2 ^ 25 + c.otype.toNat * 2 ^ 22 +
      c.e.toNat * 2 ^ 18 + c.t.toNat * 2 ^ 9 + c.b.toNat := by
    simp only [Cap.high, toNat_append_add, hr]
    ring
  rw [← hsum, BitVec.ofNat_toNat, BitVec.setWidth_eq]

theorem saturate_eq (n : Nat) : saturate n = BitVec.ofNat 32 (min n 0xFFFFFFFF) := by
  rw [saturate]
  split_ifs with h
  · rw [min_eq_left h]
  · rw [min_eq_right (by omega)]
    rfl

theorem capLen_eq (c : Cap) : capLen c = BitVec.ofNat 32
    (if c.top < c.base then 0 else min (c.top - c.base) 0xFFFFFFFF) := by
  rw [capLen, saturate_eq]
  split_ifs with h
  · rw [Nat.sub_eq_zero_of_le h.le]
    rfl
  · rfl

theorem capSubset_eq (c d : Cap) : capSubset c d =
    decide (c.tag = d.tag ∧ c.base ≤ d.base ∧ d.top ≤ c.top ∧ (d.perms &&& ~~~c.perms) = 0) := by
  rw [Bool.eq_iff_iff]
  simp [capSubset, and_assoc]

/-- Tag, metadata word and address determine a capability. -/
theorem Cap.eq_iff_high : c = d ↔ c.tag = d.tag ∧ c.high = d.high ∧ c.a = d.a := by
  constructor
  · rintro rfl
    exact ⟨rfl, rfl, rfl⟩
  · rintro ⟨ht, hh, ha⟩
    calc c = mkcap c.tag c.high c.a := (mkcap_high c.tag c).symm
      _ = mkcap d.tag d.high d.a := by rw [ht, hh, ha]
      _ = d := mkcap_high d.tag d

theorem capEqual_eq (c d : Cap) :
    (c == d) = decide (c.tag = d.tag ∧ c.high = d.high ∧ c.a = d.a) := by
  rw [Bool.eq_iff_iff, beq_iff_eq, decide_eq_true_iff, Cap.eq_iff_high]

end Queries

/-- Settles O48: `high_mkcap` for CSetHigh. -/
theorem moveResults : Obligations.MoveResults := by
  intro s cd cs1 rs2 c m
  exact ⟨finishC_writesCap .., finishC_writesCap .., finishC_writesCap ..,
    mkcap false m c.a, finishC_writesCap .., rfl, rfl, high_mkcap ..⟩

/-- Settles O49: what each query computes, as a number. -/
theorem inspectResults : Obligations.InspectResults := by
  intro s rd cs1 cs2 a b num bool
  refine ⟨writesInt_of_eq (BitVec.ofNat_toNat ..).symm, writesInt_of_eq (Cap.archotype_word_eq_ofNat _),
    finishX_writesInt .., writesInt_of_eq (capLen_eq _), writesInt_of_eq (saturate_eq _),
    finishX_writesInt .., finishX_writesInt .., writesInt_of_eq (Cap.high_eq_ofNat _),
    writesInt_of_eq (sub_eq_ofInt ..), writesInt_of_eq ?_, writesInt_of_eq ?_⟩
  · rw [capSubset_eq]
    rfl
  · rw [capEqual_eq]
    rfl

end Sys2Proof.Machine
end

section
/-! SUPPORT. Control transfer (41_control_transfer.md): branches, jumps, sentries, and what changes PCC
and MIE. -/

namespace Sys2Proof.Machine

/-! ## Branches -/

section Branches
variable {s : State}

/-- A branch offset counts parcels. -/
theorem doubled_eq_ofInt {n : Nat} (off : BitVec n) :
    (off ++ 0#1).signExtend 32 = BitVec.ofInt 32 (2 * off.toInt) := signExtend_append_zeros off

/-- A branch whose condition is a proposition `p` of the two addresses, offset `d`. -/
theorem opBranch_movesOnly {cond : Word → Word → Bool} {len off d : Word} {rs1 rs2 : Reg} {p : Prop}
    [Decidable p] (hcond : cond (s.x rs1) (s.x rs2) = decide p) (hoff : off = d) :
    MovesOnly (opBranch cond len rs1 rs2 off s) s (if p then s.pc + d else s.pc + len) := by
  rw [opBranch, hcond, hoff]
  by_cases hp : p
  · rw [if_pos hp, if_pos (decide_eq_true hp)]
    exact pc_movesOnly s _
  · rw [if_neg hp, if_neg (mt of_decide_eq_true hp)]
    exact pc_movesOnly s _

/-- As `opBranch_movesOnly`, for a condition that is the negation. -/
theorem opBranch_movesOnly_not {cond : Word → Word → Bool} {len off d : Word} {rs1 rs2 : Reg}
    {p : Prop} [Decidable p] (hcond : cond (s.x rs1) (s.x rs2) = !decide p) (hoff : off = d) :
    MovesOnly (opBranch cond len rs1 rs2 off s) s (if p then s.pc + len else s.pc + d) := by
  rw [← ite_not]
  exact opBranch_movesOnly (by rw [hcond, decide_not]) hoff

end Branches

/-- Settles O16: each condition is the comparison the statement names, each offset twice its field. -/
theorem branchResults : Obligations.BranchResults := by
  intro s rs1 rs2 r off o a b taken takenC
  have hoff : immB off = BitVec.ofInt 32 (2 * off.toInt) := doubled_eq_ofInt off
  have ho : immCB o = BitVec.ofInt 32 (2 * o.toInt) := doubled_eq_ofInt o
  exact ⟨opBranch_movesOnly rfl hoff, opBranch_movesOnly_not rfl hoff, opBranch_movesOnly rfl hoff,
    opBranch_movesOnly_not (cond := fun a b => !a.slt b) rfl hoff, opBranch_movesOnly rfl hoff,
    opBranch_movesOnly_not (cond := fun a b => !a.ult b) rfl hoff, opBranch_movesOnly rfl ho,
    opBranch_movesOnly_not rfl ho⟩

/-! ## Jumps -/

/-- Settles O17: the three forms of `opCjal`. -/
theorem jumpAndLinkResults : Obligations.JumpAndLinkResults := by
  intro s cd off o
  have hoff : immJ off = BitVec.ofInt 32 (2 * off.toInt) := doubled_eq_ofInt off
  have ho : immCJ o = BitVec.ofInt 32 (2 * o.toInt) := doubled_eq_ofInt o
  rw [← hoff, ← ho]
  exact ⟨opCjal_jumps .., opCjal_jumps .., opCjal_jumps ..⟩

section JumpRegister
variable {s : State} {cd cs1 : Reg} {imm : Word}

/-- A jump to a target that passes the check. -/
theorem opCjalr_jumps {len : Word} (h : s.checkJump cd cs1 imm = none) :
    Jumps (opCjalr len cd cs1 imm s) s cd len { s.reg cs1 with otype := 0 }
      (((s.reg cs1).a + imm) &&& 0xFFFFFFFE) (sentryMie (s.reg cs1).archotype s.mstatusMie) := by
  rw [opCjalr_of_check_none h]
  exact jumpTo_jumps ..

/-- The register forms, which have no offset. -/
theorem opCjalr_zero_jumps {len : Word} (h : s.checkJump cd cs1 0 = none) :
    Jumps (opCjalr len cd cs1 0 s) s cd len { s.reg cs1 with otype := 0 }
      ((s.reg cs1).a &&& 0xFFFFFFFE) (sentryMie (s.reg cs1).archotype s.mstatusMie) := by
  have hj := opCjalr_jumps (len := len) h
  rwa [BitVec.ofNat_eq_ofNat, BitVec.add_zero] at hj

theorem opCjalr_trapsCheri {len : Word} {cause : CheriCause}
    (h : s.checkJump cd cs1 imm = some (.cheri cause (.reg cs1))) :
    TrapsCheri (opCjalr len cd cs1 imm s) s false cs1.bits.toNat cause.code.toNat := by
  rw [opCjalr_of_check_some h]
  exact raise_reg_trapsCheri s

/-- The exceptions of a jump through a capability, in the order of R286. -/
theorem checkJump_eq : s.checkJump cd cs1 imm =
    if (s.reg cs1).tag = false then some (.cheri .tag (.reg cs1))
    else if (s.reg cs1).archotype ∉ validOtypes cs1 cd then some (.cheri .seal (.reg cs1))
    else if (s.reg cs1).archotype ≠ 0 ∧ imm ≠ 0 then some (.cheri .seal (.reg cs1))
    else if (s.reg cs1).isExec = false then some (.cheri .ex (.reg cs1))
    else none := by
  rw [State.checkJump]
  simp only [Bool.not_eq_true', List.contains_eq_mem, decide_eq_false_iff_not]

theorem signExtend_ne_zero_iff {n : BitVec 12} : n.signExtend 32 ≠ 0 ↔ n ≠ 0 := by
  have h := BitVec.toInt_signExtend_of_le (x := n) (show 12 ≤ 32 by decide)
  rw [not_iff_not, ← BitVec.toInt_inj, ← BitVec.toInt_inj, h]
  rfl

/-- The three forms of a jump through a capability, as the shared operation. -/
theorem exec_jumpRegister {i : Instr} {n : BitVec 12}
    (h : i = .cjalr cd cs1 n ∨ (cd = .c0 ∧ n = 0 ∧ i = .rvcJr cs1) ∨
      (cd = .c1 ∧ n = 0 ∧ i = .rvcJalr cs1)) :
    ∃ len, exec i s = opCjalr len cd cs1 (n.signExtend 32) s := by
  rcases h with rfl | ⟨rfl, rfl, rfl⟩ | ⟨rfl, rfl, rfl⟩
  · exact ⟨4, rfl⟩
  · exact ⟨2, rfl⟩
  · exact ⟨2, rfl⟩

end JumpRegister

/-- Settles O18: a target that passes the check, in the three forms. -/
theorem jumpRegisterResults : Obligations.JumpRegisterResults := by
  intro s cd cs1 imm t mie pcc htag hexec
  have himm : t.archotype = 0 ∨ imm = 0 → t.archotype = 0 ∨ imm.signExtend 32 = 0 :=
    Or.imp_right fun h => not_not.1 (mt signExtend_ne_zero_iff.1 (not_not.2 h))
  exact ⟨fun hot hoff => opCjalr_jumps (checkJump_eq_none htag hot (himm hoff) hexec),
    fun hot => opCjalr_zero_jumps (checkJump_eq_none htag hot (.inr rfl) hexec),
    fun hot => opCjalr_zero_jumps (checkJump_eq_none htag hot (.inr rfl) hexec)⟩

/-- Settles O20: the branches of the check (`checkJump_eq`). -/
theorem jumpRegisterTrapsInOrder : Obligations.JumpRegisterTrapsInOrder := by
  intro s i cd cs1 imm hi t
  obtain ⟨len, hexec⟩ := exec_jumpRegister (s := s) hi
  have hcheck := checkJump_eq (s := s) (cd := cd) (cs1 := cs1) (imm := imm.signExtend 32)
  simp only [signExtend_ne_zero_iff] at hcheck
  rw [hexec]
  split_ifs at hcheck ⊢
  · exact opCjalr_trapsCheri hcheck
  · exact opCjalr_trapsCheri hcheck
  · exact opCjalr_trapsCheri hcheck
  · exact ⟨_, opCjalr_of_check_none hcheck, rfl, rfl, rfl⟩
  · exact opCjalr_trapsCheri hcheck

/-! ## A call and its return (R284, R286, R287) -/

section SentryCall
variable {s u : State}

/-- The link of a call fetched inside a well-formed PCC keeps the tag but where the next instruction
lies at 2^32 below exponent 24 (log 27). -/
theorem link_representable_iff (hwf : s.pcc.wellFormed) (hbase : s.pcc.base ≤ s.pc.toNat)
    (htop : s.pc.toNat + 4 ≤ s.pcc.top) :
    s.pcc.representable (s.pc + 4) = true ↔ s.pc.toNat + 4 < 4294967296 ∨ s.pcc.exp = 24 := by
  have hspace : s.pcc.top ≤ 4294967296 := hwf.2.1
  have hnext : (s.pc + 4).toNat = (s.pc.toNat + 4) % 4294967296 := BitVec.toNat_add ..
  rw [hwf.representable_iff_range, hnext]
  rcases s.pcc.exp_le with he | he
  · have hlt := hwf.top_lt he
    have hspan : 2 ^ (s.pcc.exp + 9) ≤ 2 ^ 23 := Nat.pow_le_pow_right (by decide) (by omega)
    omega
  · simp [he]

/-- The link of an executable PCC is a backward sentry, of otype 5 or 4 by MIE (R284). -/
theorem link_archotype (len : Word) (hexec : s.pcc.isExec = true) :
    (s.link len).archotype = if s.mstatusMie then 5 else 4 := by
  have hex : (s.link len).isExec = true := hexec
  rw [Cap.archotype, State.link_otype, linkOtype, hex]
  cases s.mstatusMie <;> rfl

/-- Entering that sentry gives back the MIE it was made under (R287). -/
theorem sentryMie_link (mie mie' : Bool) : sentryMie (if mie then 5 else 4) mie' = mie := by
  cases mie <;> rfl

/-- The address of the next instruction is even, so the return goes to it. -/
theorem next_and_clearBit0 {a : Word} (ha : a.toNat % 2 = 0) :
    ((a + 4) + 0) &&& 0xFFFFFFFE = a + 4 := by
  have heven : (a + 4).toNat % 2 = 0 := even_add ha (by decide)
  have hclear : (a + 4) &&& 0xFFFFFFFE = BitVec.ofNat 32 ((a + 4).toNat / 2 * 2) := and_clearLow _ 1
  have hzero : (a + 4) + 0 = a + 4 := BitVec.add_zero _
  rw [hzero, hclear, Nat.div_mul_cancel (Nat.dvd_of_mod_eq_zero heven), BitVec.ofNat_toNat,
    BitVec.setWidth_eq]

/-- The return through a tagged link. -/
theorem return_of_link {len : Word} (hexec : s.pcc.isExec = true) (htag : (s.link len).tag = true)
    (hreg : u.reg .c1 = s.link len) :
    exec (.cjalr .c0 .c1 0) u = .next (u.jumpTo 4 .c0 .c1 0) := by
  have hot : (u.reg .c1).archotype ∈ validOtypes .c1 .c0 := by
    rw [hreg, link_archotype len hexec]
    cases s.mstatusMie <;> decide
  exact opCjalr_of_check_none (checkJump_eq_none (hreg ▸ htag) hot (.inr rfl) (hreg ▸ hexec))

end SentryCall

/-- Settles O21: the link in c1 is a backward sentry over PCC at the next instruction, which the return
unseals into PCC. -/
theorem sentryCallReturns : Obligations.SentryCallReturns := by
  intro s t u cs1 htag hexec hot hpcc hpccExec hwf hbase htop heven hcall hreg hmie returns
  have hcheck : s.checkJump .c1 cs1 0 = none :=
    checkJump_eq_none htag (by simp [hot, validOtypes]) (.inr rfl) hexec
  obtain rfl : t = s.jumpTo 4 .c1 cs1 0 := next_inj ((opCjalr_of_check_none hcheck).symm.trans hcall)
  have hlink : (s.jumpTo 4 .c1 cs1 0).reg .c1 = s.link 4 := by simp
  rw [hlink] at hreg ⊢
  refine ⟨by simp [hot, sentryMie], ?_, fun hlinkTag => ?_⟩
  · rw [State.link_tag, hpcc, Bool.true_and]
    exact link_representable_iff hwf hbase htop
  · refine ⟨_, return_of_link hpccExec hlinkTag hreg, ?_⟩
    have hrep : s.pcc.representable (s.pc + 4) = true := (Bool.and_eq_true_iff.1 hlinkTag).2
    obtain ⟨hb, ht⟩ := Cap.representable_iff.1 hrep
    rw [State.jumpTo_pc, State.jumpTo_pcc, State.jumpTo_mstatusMie, hreg]
    refine ⟨next_and_clearBit0 heven, hlinkTag, hb, ht, rfl, ?_⟩
    rw [link_archotype 4 hpccExec, sentryMie_link]

/-! ## What changes PCC and MIE (R298, R472) -/

section Control
variable {s t : State} {i : Instr}

/-- `i` jumps through the capability in `cs1`. -/
def jumpsThrough (i : Instr) (cs1 : Reg) : Prop :=
  (∃ cd imm, i = .cjalr cd cs1 imm) ∨ i = .rvcJr cs1 ∨ i = .rvcJalr cs1

/-- What an instruction can do to PCC and MIE. -/
inductive Control (s : State) : Instr → State → Prop where
  | kept (i : Instr) (t : State) (hpcc : t.pcc = s.pcc) (hmie : t.mstatusMie = s.mstatusMie) :
      Control s i t
  | trapped (i : Instr) (e : Exc) : Control s i (s.trap e)
  | returned (h : s.hasSr = true) : Control s .mret s.trapReturn
  | wroteStatus (i : Instr) (t : State) (f : CsrForm) (hf : s.csrForm i = some f)
      (haddr : f.addr = 0x300) (hw : f.writes = true) (hsr : s.hasSr = true) (hpcc : t.pcc = s.pcc) :
      Control s i t
  | jumped (i : Instr) (len : Word) (cd cs1 : Reg) (imm : Word) (hi : jumpsThrough i cs1)
      (h : s.checkJump cd cs1 imm = none) : Control s i (s.jumpTo len cd cs1 imm)

theorem raise_control {e : Exc} (h : raise e s = .next t) : Control s i t := by
  rw [raise_next h]
  exact .trapped i e

theorem finishC_control {len : Word} {cd : Reg} {v : Cap} (h : finishC len cd v s = .next t) :
    Control s i t := .kept i t (by rw [finishC_next h]; rfl) (by rw [finishC_next h]; rfl)

theorem finishX_control {len : Word} {rd : Reg} {v : Word} (h : finishX len rd v s = .next t) :
    Control s i t := finishC_control h

theorem opM_control {j : Instr} {f : Word → Word → Word} {rd rs1 rs2 : Reg}
    (h : opM j f rd rs1 rs2 s = .next t) : Control s i t := by
  rcases opM_next h with ⟨-, rfl⟩ | ⟨-, rfl⟩
  · exact .kept _ _ rfl rfl
  · exact .trapped _ _

theorem opCjal_control {len : Word} {cd : Reg} {off : Word} (h : opCjal len cd off s = .next t) :
    Control s i t := by
  rw [opCjal_next h]
  exact .kept _ _ rfl rfl

theorem opCjalr_control {len : Word} {cd cs1 : Reg} {imm : Word} (hi : jumpsThrough i cs1)
    (h : opCjalr len cd cs1 imm s = .next t) : Control s i t := by
  rcases opCjalr_next h with ⟨e, -, rfl⟩ | ⟨hcheck, rfl⟩
  · exact .trapped i e
  · exact .jumped i len cd cs1 imm hi hcheck

theorem opBranch_control {cond : Word → Word → Bool} {len : Word} {rs1 rs2 : Reg} {off : Word}
    (h : opBranch cond len rs1 rs2 off s = .next t) : Control s i t := by
  rcases opBranch_next h with ⟨-, rfl⟩ | ⟨-, rfl⟩
  all_goals exact .kept _ _ rfl rfl

theorem execMret_control (h : execMret s = .next t) : Control s .mret t := by
  unfold execMret at h
  split at h
  · rw [next_inj h]
    exact .returned ‹_›
  · exact raise_control h

theorem execCspecialrw_control {cd : Reg} {n : Scr} {cs1 : Reg}
    (h : execCspecialrw cd n cs1 s = .next t) : Control s i t := by
  unfold execCspecialrw at h
  split at h
  · rw [next_inj h, State.swapScr]
    split
    · exact .kept _ _ rfl rfl
    · cases n <;> exact .kept _ _ rfl rfl
  · exact raise_control h

theorem access_control {m : Access} (ha : i.access = some m) (h : exec i s = .next t) :
    Control s i t := by
  rcases access_next ha h with ⟨e, rfl⟩ | ⟨-, v, rfl⟩ | ⟨-, -, rfl⟩ | ⟨-, -, rfl⟩
  · exact .trapped i e
  all_goals exact .kept _ _ rfl rfl

/-- Only a write of `mstatus` changes MIE. -/
theorem writeCsr_mstatusMie_of_ne {c : Csr} (hc : c ≠ .mstatus) (v : Word) :
    (s.writeCsr c v).mstatusMie = s.mstatusMie := by
  cases c with
  | mstatus => exact absurd rfl hc
  | _ => rfl

theorem hpmCsr_ne_mstatus (p : Platform) (n : Nat) (half : Bool) : hpmCsr p n half ≠ some .mstatus := by
  unfold hpmCsr
  split_ifs <;> simp

/-- `mstatus` is the register at 0x300 and at no other address (R91). -/
theorem addr_of_csrAt_mstatus {p : Platform} {addr : BitVec 12} (h : csrAt p addr = some .mstatus) :
    addr = 0x300#12 := by
  by_contra hne
  simp [csrAt, hne, hpmCsr_ne_mstatus, ite_eq_iff] at h

theorem csr_control {f : CsrForm} (hf : s.csrForm i = some f) (h : exec i s = .next t) :
    Control s i t := by
  rcases opCsr_next ((exec_of_csrForm hf).symm.trans h) with ⟨e, -, rfl⟩ | ⟨hcheck, rfl⟩
  · exact .trapped i e
  · obtain ⟨c, hc, -, hsr⟩ := checkCsr_none hcheck
    rw [accessCsr_eq hc]
    cases hw : f.writes with
    | false => exact .kept _ _ rfl rfl
    | true =>
      by_cases hm : c = .mstatus
      · exact .wroteStatus i _ f hf (addr_of_csrAt_mstatus (hm ▸ hc)) hw (by simpa [hw] using hsr)
          (State.writeCsr_pcc ..)
      · exact .kept _ _ (State.writeCsr_pcc ..) (writeCsr_mstatusMie_of_ne hm _)

theorem exec_control (h : exec i s = .next t) : Control s i t := by
  cases ha : i.access with
  | some m => exact access_control ha h
  | none =>
  cases hf : s.csrForm i with
  | some f => exact csr_control hf h
  | none =>
  cases i with
  | lui | addi | slti | sltiu | xori | ori | andi | slli | srli | srai | add | sub | sll | slt | sltu
  | xor | srl | sra | or | and | cgetperm | cgettype | cgetbase | cgetlen | cgettop | cgettag
  | cgetaddr | cgethigh | csub | ctestsubset | csetequalexact | crrl | cram | rvcNop | rvcAddi | rvcLi
  | rvcLui | rvcSrli | rvcSrai | rvcAndi | rvcSub | rvcXor | rvcOr | rvcAnd | rvcSlli | rvcAdd =>
    exact finishX_control h
  | auipcc | auicgp | cincaddr | cincaddrimm | csetaddr | csetbounds | csetboundsexact
  | csetboundsimm | candperm | cseal | cunseal | cmove | ccleartag | csethigh | rvcAddi4spn
  | rvcAddi16sp | rvcMv => exact finishC_control h
  | mul | mulh | mulhsu | mulhu | div | divu | rem | remu => exact opM_control h
  | cjal | rvcJal | rvcJ => exact opCjal_control h
  | cjalr cd cs1 imm => exact opCjalr_control (.inl ⟨cd, imm, rfl⟩) h
  | rvcJr cs1 => exact opCjalr_control (.inr (.inl rfl)) h
  | rvcJalr cs1 => exact opCjalr_control (.inr (.inr rfl)) h
  | beq | bne | blt | bltu | rvcBeqz | rvcBnez => exact opBranch_control h
  | bge => exact opBranch_control (cond := fun a b => !a.slt b) h
  | bgeu => exact opBranch_control (cond := fun a b => !a.ult b) h
  | fence | wfi | fencei => rw [next_inj h]; exact .kept _ _ rfl rfl
  | ecall => exact raise_control (e := .envCallM) h
  | ebreak | rvcEbreak => exact raise_control (e := .breakpoint s.pc) h
  | mret => exact execMret_control h
  | cspecialrw => exact execCspecialrw_control h
  | csrrw | csrrs | csrrc | csrrwi | csrrsi | csrrci => cases hf
  | clb | clh | clw | clbu | clhu | clc | csb | csh | csw | csc | rvcLw | rvcLc | rvcSw | rvcSc
  | rvcLwsp | rvcLcsp | rvcSwsp | rvcScsp => cases ha

/-- A sentry that changes MIE is of otype 2 to 5, and the otype says how (R287). -/
theorem sentryMie_ne {ot : BitVec 4} {mie : Bool} (h : sentryMie ot mie ≠ mie) :
    (sentryMie ot mie = false ∧ (ot = 2 ∨ ot = 4)) ∨
      (sentryMie ot mie = true ∧ (ot = 3 ∨ ot = 5)) := by
  unfold sentryMie at h ⊢
  split_ifs at h ⊢ with hclear hset
  · exact .inl ⟨rfl, hclear⟩
  · exact .inr ⟨rfl, hset⟩
  · exact absurd rfl h

end Control

/-- Settles O22: by the ways an instruction can change PCC (`exec_control`). -/
theorem whatChangesPcc : Obligations.WhatChangesPcc := by
  intro s t i h
  cases exec_control h with
  | kept _ _ hpcc => exact .inl hpcc
  | wroteStatus _ _ _ _ _ _ _ hpcc => exact .inl hpcc
  | trapped _ e => exact .inr (.inl ⟨e, rfl, rfl⟩)
  | returned hsr => exact .inr (.inr (.inl ⟨rfl, hsr, rfl⟩))
  | jumped _ len cd cs1 imm hi hcheck =>
    obtain ⟨htag, -, -, hexec⟩ := checkJump_none hcheck
    exact .inr (.inr (.inr ⟨cs1, rfl, htag, hexec, hi⟩))

/-- Settles O23: by the ways an instruction can change MIE (`exec_control`). -/
theorem whatChangesMie : Obligations.WhatChangesMie := by
  intro s t i h hne
  cases exec_control h with
  | kept _ _ _ hmie => exact absurd hmie hne
  | wroteStatus _ _ f hf haddr hw hsr => exact .inr (.inr (.inl ⟨f, hf, haddr, hw, hsr⟩))
  | trapped _ e => exact .inl ⟨e, rfl⟩
  | returned hsr => exact .inr (.inl ⟨rfl, hsr, rfl⟩)
  | jumped _ len cd cs1 imm hi => exact .inr (.inr (.inr ⟨cs1, hi, sentryMie_ne hne⟩))

/-! ## The 16-bit forms and their expansions (R410) -/

section Expansion
variable {s t : State} {i : Instr}

/-- The immediates of the 16-bit forms are those of their expansions. -/
theorem scaled_eq_immI {n k : Nat} (u : BitVec n) (h : n + k ≤ 11) :
    (u ++ 0#k).setWidth 32 = immI (u.setWidth 12 <<< k) := by
  have hpow : 2 ^ (n + k) ≤ 2 ^ 11 := Nat.pow_le_pow_right (by decide) h
  have hlt : u.toNat * 2 ^ k < 2 ^ (n + k) := by
    rw [Nat.pow_add]
    exact Nat.mul_lt_mul_of_pos_right u.isLt (Nat.two_pow_pos k)
  have hu : u.toNat ≤ u.toNat * 2 ^ k := Nat.le_mul_of_pos_right _ (Nat.two_pow_pos k)
  have hval : (u.setWidth 12 <<< k).toNat = u.toNat * 2 ^ k := by
    rw [BitVec.toNat_shiftLeft, BitVec.toNat_setWidth, Nat.shiftLeft_eq,
      Nat.mod_eq_of_lt (a := u.toNat) (by omega), Nat.mod_eq_of_lt (by omega)]
  have hmsb : (u.setWidth 12 <<< k).msb = false := by
    rw [BitVec.msb_eq_decide, hval]
    exact decide_eq_false (by omega)
  apply BitVec.eq_of_toNat_eq
  rw [immI, BitVec.signExtend_eq_setWidth_of_msb_false hmsb, BitVec.toNat_setWidth,
    BitVec.toNat_setWidth, hval, toNat_append_zeros]

theorem doubled_signExtend {m n : Nat} (off : BitVec n) (h : n ≤ m) :
    (off ++ 0#1).signExtend 32 = (off.signExtend m ++ 0#1).signExtend 32 := by
  rw [signExtend_append_zeros, signExtend_append_zeros, BitVec.toInt_signExtend_of_le h]

theorem imm6_eq_immI (imm : BitVec 6) : imm6 imm = immI (imm.signExtend 12) := by
  apply BitVec.eq_of_toInt_eq
  rw [imm6, immI, toInt_immediate imm (by decide), toInt_immediate _ (by decide),
    BitVec.toInt_signExtend_of_le (by decide)]

theorem immAddi16sp_eq_immI (n : BitVec 6) : immAddi16sp n = immI (n.signExtend 12 <<< 4) := by
  decide +revert

/-- The state in which an instruction of length 4 ended, with the length 2. -/
def ShorterBy2 (r : Result) (s t : State) : Prop :=
  t.pc = s.pc + 4 ∧ r = .next { t with pc := s.pc + 2 }

theorem finishC_shorter {cd : Reg} {v w : Cap} (hv : v = w) (h : finishC 4 cd w s = .next t) :
    ShorterBy2 (finishC 2 cd v s) s t := by
  rw [finishC_next h, hv]
  exact ⟨rfl, rfl⟩

theorem finishX_shorter {rd : Reg} {v w : Word} (hv : v = w) (h : finishX 4 rd w s = .next t) :
    ShorterBy2 (finishX 2 rd v s) s t := finishC_shorter (congrArg nullWith hv) h

theorem opIncAddr_shorter {cd cs1 : Reg} {a b : Word} (hab : a = b)
    (h : opIncAddr 4 cd cs1 b s = .next t) : ShorterBy2 (opIncAddr 2 cd cs1 a s) s t :=
  finishC_shorter (by rw [hab]) h

/-- A branch that is not taken. -/
theorem opBranch_shorter {cond : Word → Word → Bool} {rs1 rs2 : Reg} {a b : Word}
    (hcond : cond (s.x rs1) (s.x rs2) = false) (h : opBranch cond 4 rs1 rs2 b s = .next t) :
    ShorterBy2 (opBranch cond 2 rs1 rs2 a s) s t := by
  rw [opBranch, hcond] at h ⊢
  rw [next_inj h]
  exact ⟨rfl, rfl⟩

/-- A branch that is taken does not use its length. -/
theorem opBranch_same {cond : Word → Word → Bool} {rs1 rs2 : Reg} {a b : Word}
    (hcond : cond (s.x rs1) (s.x rs2) = true) (hab : a = b)
    (h : opBranch cond 4 rs1 rs2 b s = .next t) : opBranch cond 2 rs1 rs2 a s = .next t := by
  rw [← h, hab, opBranch, opBranch, hcond, if_pos rfl, if_pos rfl]

/-- A load or store ends with the length 2 or with the exception of its expansion. -/
def ShorterOrTraps (r : Result) (s t : State) : Prop :=
  ShorterBy2 r s t ∨ (∃ e, t = s.trap e) ∧ r = .next t

theorem opLoad_shorter {k : LoadKind} {rd cs1 : Reg} {a b : Word} (hab : a = b)
    (h : opLoad k 4 rd cs1 b s = .next t) : ShorterOrTraps (opLoad k 2 rd cs1 a s) s t := by
  subst hab
  rcases opLoad_next h with ⟨e, hc, rfl⟩ | ⟨hc, rfl⟩ <;> rw [opLoad, hc]
  · exact .inr ⟨⟨e, rfl⟩, rfl⟩
  · exact .inl ⟨rfl, rfl⟩

theorem opLoadCap_shorter {cd cs1 : Reg} {a b : Word} (hab : a = b)
    (h : opLoadCap 4 cd cs1 b s = .next t) : ShorterOrTraps (opLoadCap 2 cd cs1 a s) s t := by
  subst hab
  rcases opLoadCap_next h with ⟨e, hc, rfl⟩ | ⟨hc, rfl⟩ <;> rw [opLoadCap, hc]
  · exact .inr ⟨⟨e, rfl⟩, rfl⟩
  · exact .inl ⟨rfl, rfl⟩

theorem opStore_shorter {n : Nat} {rs2 cs1 : Reg} {a b : Word} (hab : a = b)
    (h : opStore n 4 rs2 cs1 b s = .next t) : ShorterOrTraps (opStore n 2 rs2 cs1 a s) s t := by
  subst hab
  rcases opStore_next h with ⟨e, hc, rfl⟩ | ⟨hc, rfl⟩ <;> rw [opStore, hc]
  · exact .inr ⟨⟨e, rfl⟩, rfl⟩
  · exact .inl ⟨rfl, rfl⟩

theorem opStoreCap_shorter {cs2 cs1 : Reg} {a b : Word} (hab : a = b)
    (h : opStoreCap 4 cs2 cs1 b s = .next t) :
    ShorterOrTraps (opStoreCap 2 cs2 cs1 a s) s t := by
  subst hab
  rcases opStoreCap_next h with ⟨e, hc, rfl⟩ | ⟨hc, rfl⟩ <;> rw [opStoreCap, hc]
  · exact .inr ⟨⟨e, rfl⟩, rfl⟩
  · exact .inl ⟨rfl, rfl⟩

/-- The instruction sets `pc` itself, so that its length plays no part. -/
def State.setsPc (s : State) (i : Instr) : Prop :=
  (∃ off, i = .rvcJ off) ∨ (∃ r, i = .rvcJr r) ∨ i = .rvcEbreak ∨
    (∃ r off, i = .rvcBeqz r off ∧ s.x r.reg = 0) ∨ (∃ r off, i = .rvcBnez r off ∧ s.x r.reg ≠ 0)

/-- How a 16-bit instruction stands to the state `t` of its expansion: what O15 says. -/
def RunsAs (i : Instr) (s t : State) : Prop :=
  (s.setsPc i → exec i s = .next t) ∧
    (¬s.setsPc i → t.pc = s.pc + 4 ∧ exec i s = .next { t with pc := s.pc + 2 } ∨
      i.access ≠ none ∧ (∃ e, t = s.trap e) ∧ exec i s = .next t)

theorem RunsAs.same (hi : s.setsPc i) (h : exec i s = .next t) : RunsAs i s t :=
  ⟨fun _ => h, fun hn => absurd hi hn⟩

theorem RunsAs.shorter (hi : ¬s.setsPc i) (h : ShorterBy2 (exec i s) s t) : RunsAs i s t :=
  ⟨fun hp => absurd hp hi, fun _ => .inl h⟩

theorem RunsAs.access (hi : ¬s.setsPc i) (ha : i.access ≠ none) (h : ShorterOrTraps (exec i s) s t) :
    RunsAs i s t :=
  ⟨fun hp => absurd hp hi, fun _ => h.imp_right fun ht => ⟨ha, ht⟩⟩

end Expansion

/-- Settles O15: each form is the shared operation of its expansion with length 2, on the same
immediate. -/
theorem compressedRunsItsExpansion : Obligations.CompressedRunsItsExpansion := by
  intro s t i j hij hnotJal hnotJalr h
  change RunsAs i s t
  cases i with
  | rvcJal off => exact absurd rfl (hnotJal off)
  | rvcJalr r => exact absurd rfl (hnotJalr r)
  | rvcAddi4spn cd u =>
    cases hij
    exact .shorter (by simp [State.setsPc]) (opIncAddr_shorter (scaled_eq_immI u (by decide)) h)
  | rvcAddi16sp n =>
    cases hij
    exact .shorter (by simp [State.setsPc]) (opIncAddr_shorter (immAddi16sp_eq_immI n) h)
  | rvcMv cd cs2 =>
    cases hij
    exact .shorter (by simp [State.setsPc]) (finishC_shorter rfl h)
  | rvcNop imm | rvcAddi rd imm | rvcLi rd imm | rvcAndi rd imm =>
    cases hij
    exact .shorter (by simp [State.setsPc]) (finishX_shorter (by rw [imm6_eq_immI]) h)
  | rvcLui | rvcSrli | rvcSrai | rvcSub | rvcXor | rvcOr | rvcAnd | rvcSlli | rvcAdd =>
    cases hij
    exact .shorter (by simp [State.setsPc]) (finishX_shorter rfl h)
  | rvcLw rd cs1 u | rvcLwsp rd u =>
    cases hij
    exact .access (by simp [State.setsPc]) (by simp [Instr.access])
      (opLoad_shorter (scaled_eq_immI u (by decide)) h)
  | rvcLc cd cs1 u | rvcLcsp cd u =>
    cases hij
    exact .access (by simp [State.setsPc]) (by simp [Instr.access])
      (opLoadCap_shorter (scaled_eq_immI u (by decide)) h)
  | rvcSw rs2 cs1 u | rvcSwsp rs2 u =>
    cases hij
    exact .access (by simp [State.setsPc]) (by simp [Instr.access])
      (opStore_shorter (scaled_eq_immI u (by decide)) h)
  | rvcSc cs2 cs1 u | rvcScsp cs2 u =>
    cases hij
    exact .access (by simp [State.setsPc]) (by simp [Instr.access])
      (opStoreCap_shorter (scaled_eq_immI u (by decide)) h)
  | rvcJ off =>
    cases hij
    have hoff : immCJ off = immJ (off.signExtend 20) := doubled_signExtend off (by decide)
    refine .same (.inl ⟨off, rfl⟩) ?_
    rw [← h]
    exact congrArg (opCjal 2 .c0 · s) hoff
  | rvcJr cs1 =>
    cases hij
    exact .same (.inr (.inl ⟨cs1, rfl⟩)) h
  | rvcEbreak =>
    cases hij
    exact .same (.inr (.inr (.inl rfl))) h
  | rvcBeqz rs1 off =>
    cases hij
    by_cases hz : s.x rs1.reg = 0
    · exact .same (.inr (.inr (.inr (.inl ⟨rs1, off, rfl, hz⟩))))
        (opBranch_same (beq_iff_eq.2 hz) (doubled_signExtend off (by decide)) h)
    · exact .shorter (by simpa [State.setsPc] using hz) (opBranch_shorter (beq_eq_false_iff_ne.2 hz) h)
  | rvcBnez rs1 off =>
    cases hij
    by_cases hz : s.x rs1.reg = 0
    · exact .shorter (by simp [State.setsPc, hz]) (opBranch_shorter (bne_eq_false_iff_eq.2 hz) h)
    · exact .same (.inr (.inr (.inr (.inr ⟨rs1, off, rfl, hz⟩))))
        (opBranch_same (bne_iff_ne.2 hz) (doubled_signExtend off (by decide)) h)
  | _ => cases hij

end Sys2Proof.Machine
end

section
/-! SUPPORT. Loads and stores (42_loads_stores.md): the check and its order, what a load delivers, and
what a store leaves. -/

namespace Sys2Proof.Machine

/-! ## The check (R300) -/

section Check
variable {s t : State} {i : Instr} {m : Access}

theorem misaligned_iff {p : Platform} {k : AccessKind} {addr n : Nat} (hn : k.isCap = true → n = 8) :
    misaligned p k addr n = true ↔
      addr % n ≠ 0 ∧ (k.isCap = true ∨ p.misalignedDataOk = false) := by
  rw [misaligned]
  cases hk : k.isCap with
  | true => simp [hn hk]
  | false => simp [and_comm]

theorem allMapped_eq_false_iff {p : Platform} {addr n : Nat} :
    allMapped p addr n = false ↔
      (List.range n).any (fun k => (mapped p (addr + k)).isNone) = true := by
  simp [allMapped, List.all_eq_false]

theorem inBounds_eq_false_iff {c : Cap} {addr n : Nat} :
    c.inBounds addr n = false ↔ addr < c.base ∨ c.top < addr + n := by
  rw [Cap.inBounds, decide_eq_false_iff_not]
  omega

/-- The exceptions of an access, in the order of R300. -/
theorem checkAccess_eq {k : AccessKind} {r : Reg} {imm : Word} {n : Nat}
    (hn : k.isCap = true → n = 8) : s.checkAccess k r imm n =
    if (s.reg r).tag = false then some (.cheri .tag (.reg r))
    else if (s.reg r).isSealed = true then some (.cheri .seal (.reg r))
    else if k.isLoad = true ∧ (s.reg r).has .ld = false then some (.cheri .ld (.reg r))
    else if k.isLoad = false ∧ (s.reg r).has .sd = false then some (.cheri .sd (.reg r))
    else if k.needsMc = true ∧ (s.reg r).has .mc = false then some (.cheri .mc (.reg r))
    else if (s.dataAddr r imm).toNat < (s.reg r).base ∨
        (s.reg r).top < (s.dataAddr r imm).toNat + n then some (.cheri .bounds (.reg r))
    else if (s.dataAddr r imm).toNat % n ≠ 0 ∧
        (k.isCap = true ∨ s.platform.misalignedDataOk = false) then
      some (if k.isLoad then .loadMisaligned (s.dataAddr r imm)
        else .storeMisaligned (s.dataAddr r imm))
    else if (List.range n).any
        (fun j => (mapped s.platform ((s.dataAddr r imm).toNat + j)).isNone) then
      some (if k.isLoad then .loadAccessFault (s.dataAddr r imm)
        else .storeAccessFault (s.dataAddr r imm))
    else none := by
  rw [State.checkAccess]
  simp only [Bool.not_eq_true', Bool.and_eq_true, inBounds_eq_false_iff, misaligned_iff hn,
    allMapped_eq_false_iff]

/-- The access as `CheckAccess` sees it. -/
def Access.kind (s : State) (m : Access) : AccessKind :=
  if m.isLoad then (if m.isCap then .loadCap else .loadInt)
  else if m.isCap then .storeCap (s.reg m.data).tag else .storeInt

theorem Access.kind_isLoad : (m.kind s).isLoad = m.isLoad := by
  cases hl : m.isLoad <;> cases hc : m.isCap <;> simp [Access.kind, hl, hc, AccessKind.isLoad]

theorem Access.kind_isCap : (m.kind s).isCap = m.isCap := by
  cases hl : m.isLoad <;> cases hc : m.isCap <;> simp [Access.kind, hl, hc, AccessKind.isCap]

theorem Access.kind_needsMc : (m.kind s).needsMc = s.storesTagged m := by
  cases hl : m.isLoad <;> cases hc : m.isCap <;>
    simp [Access.kind, State.storesTagged, hl, hc, AccessKind.needsMc]

theorem access_size (s : State) (ha : i.access = some m) (hc : m.isCap = true) : m.size = 8 := by
  cases exec_answers s ha with
  | load => cases hc
  | loadCap => rfl
  | store => cases hc
  | storeCap => rfl

/-- An access whose check fails takes that exception. -/
theorem exec_access_of_some {e : Exc} (ha : i.access = some m)
    (hc : s.checkAccess (m.kind s) m.base m.imm m.size = some e) : exec i s = raise e s := by
  cases exec_answers s ha with
  | load k base imm rd len h =>
    have hc : s.checkAccess .loadInt base imm k.size = some e := hc
    rw [h, opLoad, hc]
  | loadCap base imm cd len h =>
    have hc : s.checkAccess .loadCap base imm 8 = some e := hc
    rw [h, opLoadCap, hc]
  | store n base imm rs2 len h =>
    have hc : s.checkAccess .storeInt base imm n = some e := hc
    rw [h, opStore, hc]
  | storeCap base imm cs2 len h =>
    have hc : s.checkAccess (.storeCap (s.reg cs2).tag) base imm 8 = some e := hc
    rw [h, opStoreCap, hc]

/-- What a load or store has done when its check passes: written its destination, or stored. -/
inductive Access.Done (s : State) (m : Access) : State → Prop where
  | loaded (v : Cap) (hl : m.isLoad = true) : Done s m ((s.setReg m.data v).advance m.len)
  | stored (addr : Word) (bytes : List Byte) (hl : m.isLoad = false) :
      Done s m ((s.memWrite addr bytes).advance m.len)
  | storedCap (addr : Word) (tag : Bool) (v : Cap) (hl : m.isLoad = false) :
      Done s m ((s.memWriteCap addr tag v).advance m.len)

theorem exec_access_of_none (ha : i.access = some m)
    (hc : s.checkAccess (m.kind s) m.base m.imm m.size = none) :
    ∃ t, exec i s = .next t ∧ m.Done s t := by
  cases exec_answers s ha with
  | load k base imm rd len h =>
    have hc : s.checkAccess .loadInt base imm k.size = none := hc
    exact ⟨_, by rw [h, opLoad, hc]; rfl, .loaded _ rfl⟩
  | loadCap base imm cd len h =>
    have hc : s.checkAccess .loadCap base imm 8 = none := hc
    exact ⟨_, by rw [h, opLoadCap, hc]; rfl, .loaded _ rfl⟩
  | store n base imm rs2 len h =>
    have hc : s.checkAccess .storeInt base imm n = none := hc
    exact ⟨_, by rw [h, opStore, hc], .stored _ _ rfl⟩
  | storeCap base imm cs2 len h =>
    have hc : s.checkAccess (.storeCap (s.reg cs2).tag) base imm 8 = none := hc
    exact ⟨_, by rw [h, opStoreCap, hc], .storedCap _ _ _ rfl⟩

theorem Access.Done.completes (h : m.Done s t) : Completes (.next t) s m.data m.len := by
  cases h with
  | loaded v =>
    refine ⟨_, rfl, rfl, rfl, fun r hr => ?_, ⟨rfl, rfl, rfl, rfl⟩, ⟨rfl, rfl⟩, ⟨rfl, rfl⟩⟩
    exact (s.reg_setReg m.data r v).trans (if_neg fun h => hr h.1)
  | stored | storedCap =>
    exact ⟨_, rfl, rfl, rfl, fun _ _ => rfl, ⟨rfl, rfl, rfl, rfl⟩, ⟨rfl, rfl⟩, ⟨rfl, rfl⟩⟩

theorem Access.Done.of_isLoad (h : m.Done s t) (hl : m.isLoad = true) :
    SameMemory s t ∧ SameMark s t := by
  cases h with
  | loaded => exact ⟨⟨fun _ => rfl, fun _ => rfl⟩, rfl⟩
  | stored _ _ hs => exact absurd (hl.symm.trans hs) (by decide)
  | storedCap _ _ _ hs => exact absurd (hl.symm.trans hs) (by decide)

theorem Access.Done.of_not_isLoad (h : m.Done s t) (hl : m.isLoad = false) : SameRegs s t := by
  cases h with
  | loaded _ hs => exact absurd (hl.symm.trans hs) (by decide)
  | stored | storedCap => exact fun _ => rfl

/-- An exception whose `mtval` is `value`. -/
theorem raise_traps_value {e : Exc} (he : e ≠ .cheri .bounds .pcc) {value : Word}
    (hvalue : e.value s.platform = value) :
    Traps (raise e s) s (s.pccVal s.pc) e.code value := by
  have h := raise_traps e s
  rwa [exceptionPcc_eq he, hvalue] at h

end Check

/-- Settles O24: the branches of the check (`checkAccess_eq`). -/
theorem accessTrapsInOrder : Obligations.AccessTrapsInOrder := by
  intro s i m ha auth addr idx
  have hcheck := checkAccess_eq (s := s) (k := m.kind s) (r := m.base) (imm := m.imm) (n := m.size)
    (fun hc => access_size s ha (Access.kind_isCap.symm.trans hc))
  have haddr : s.dataAddr m.base m.imm = addr := rfl
  rw [Access.kind_isLoad, Access.kind_isCap, Access.kind_needsMc, haddr] at hcheck
  have htrap {cause : CheriCause} (h : s.checkAccess (m.kind s) m.base m.imm m.size =
      some (.cheri cause (.reg m.base))) : TrapsCheri (exec i s) s false idx cause.code.toNat := by
    rw [exec_access_of_some ha h]
    exact raise_reg_trapsCheri s
  have hfault {e : Exc} (he : e ≠ .cheri .bounds .pcc) (hv : e.value s.platform = addr)
      (h : s.checkAccess (m.kind s) m.base m.imm m.size = some e) :
      Traps (exec i s) s (s.pccVal s.pc) e.code addr := by
    rw [exec_access_of_some ha h]
    exact raise_traps_value he hv
  split_ifs at hcheck ⊢
  · exact htrap hcheck
  · exact htrap hcheck
  · exact htrap hcheck
  · exact htrap hcheck
  · exact htrap hcheck
  · exact htrap hcheck
  · exact hfault (by simp) rfl hcheck
  · exact hfault (by simp) rfl hcheck
  · exact hfault (by simp) rfl hcheck
  · exact hfault (by simp) rfl hcheck
  · obtain ⟨t, hexec, hdone⟩ := exec_access_of_none ha hcheck
    rw [hexec]
    exact ⟨hdone.completes, fun hl => ⟨t, rfl, hdone.of_isLoad hl⟩,
      fun hl => ⟨t, rfl, hdone.of_not_isLoad hl⟩⟩

end Sys2Proof.Machine
end

section
/-! SUPPORT. What the loads deliver and the stores leave (42_loads_stores.md sections 2 to 4). -/

namespace Sys2Proof.Machine

/-! ## Granted accesses -/

section Granted
variable {s : State} {r : Reg} {imm : Word} {n : Nat}

theorem Aligned.not_misaligned {k : AccessKind} {addr : Nat} (hk : k.isCap = false)
    (h : Aligned s addr n) : misaligned s.platform k addr n = false := by
  rw [misaligned, hk]
  rcases h with h | h <;> simp [h]

theorem checkAccess_loadInt (hg : Grants s r .ld (s.dataAddr r imm).toNat n)
    (ha : Aligned s (s.dataAddr r imm).toNat n) : s.checkAccess .loadInt r imm n = none := by
  have ⟨htag, hsealed, hld, _⟩ := hg
  exact checkAccess_eq_none htag hsealed (fun _ => hld) nofun nofun hg.inBounds
    (ha.not_misaligned rfl) hg.allMapped

theorem checkAccess_storeInt (hg : Grants s r .sd (s.dataAddr r imm).toNat n)
    (ha : Aligned s (s.dataAddr r imm).toNat n) : s.checkAccess .storeInt r imm n = none := by
  have ⟨htag, hsealed, hsd, _⟩ := hg
  exact checkAccess_eq_none htag hsealed nofun (fun _ => hsd) nofun hg.inBounds
    (ha.not_misaligned rfl) hg.allMapped

theorem checkAccess_loadCap (hg : Grants s r .ld (s.dataAddr r imm).toNat 8)
    (ha : (s.dataAddr r imm).toNat % 8 = 0) : s.checkAccess .loadCap r imm 8 = none := by
  have ⟨htag, hsealed, hld, _⟩ := hg
  exact checkAccess_eq_none htag hsealed (fun _ => hld) nofun nofun hg.inBounds
    (by simp [misaligned, AccessKind.isCap, ha]) hg.allMapped

theorem aligned_one (s : State) (addr : Nat) : Aligned s addr 1 := .inr (Nat.mod_one addr)

theorem opLoad_of_check {k : LoadKind} {len : Word} {rd : Reg}
    (h : s.checkAccess .loadInt r imm k.size = none) :
    opLoad k len rd r imm s = finishX len rd (s.loadValue k (s.dataAddr r imm).toNat) s := by
  rw [opLoad, h]

theorem opLoadCap_of_check {len : Word} {cd : Reg} (h : s.checkAccess .loadCap r imm 8 = none) :
    opLoadCap len cd r imm s =
      finishC len cd (s.loadedCap (s.reg r) (s.loadCap (s.dataAddr r imm).toNat)) s := by
  rw [opLoadCap, h]

theorem opStore_of_check {len : Word} {rs2 : Reg} (h : s.checkAccess .storeInt r imm n = none) :
    opStore n len rs2 r imm s =
      .next ((s.memWrite (s.dataAddr r imm) ((wordBytes (s.x rs2)).take n)).advance len) := by
  rw [opStore, h]

end Granted

/-! ## Integer loads (R301 to R305) -/

section IntegerLoads
variable {s : State} {a : Nat}

theorem load16_toNat : (s.load16 a).toNat = leValue (s.dataBytes a 2) := by
  have h : leValue (s.dataBytes a 2) =
      (s.byteAt .data a).toNat + 256 * ((s.byteAt .data (a + 1)).toNat + 256 * 0) := rfl
  rw [h, State.load16, toNat_append_add]
  omega

theorem load32_toNat : (s.load32 a).toNat = leValue (s.dataBytes a 4) := by
  have h : leValue (s.dataBytes a 4) = (s.byteAt .data a).toNat +
      256 * ((s.byteAt .data (a + 1)).toNat + 256 * ((s.byteAt .data (a + 2)).toNat +
        256 * ((s.byteAt .data (a + 2 + 1)).toNat + 256 * 0))) := rfl
  rw [h, State.load32, State.load16, State.load16, toNat_append_add, toNat_append_add,
    toNat_append_add]
  omega

theorem load32_eq_ofNat : s.load32 a = BitVec.ofNat 32 (leValue (s.dataBytes a 4)) := by
  rw [← load32_toNat, BitVec.ofNat_toNat, BitVec.setWidth_eq]

/-- A sign-extended value, as a number (R301, R302). -/
theorem signExtend_eq_ofInt_bmod {n : Nat} (x : BitVec n) :
    x.signExtend 32 = BitVec.ofInt 32 ((x.toNat : Int).bmod (2 ^ n)) := by
  rw [BitVec.signExtend, BitVec.toInt_eq_toNat_bmod]

theorem setWidth_eq_ofNat {n : Nat} (x : BitVec n) : x.setWidth 32 = BitVec.ofNat 32 x.toNat :=
  (BitVec.ofNat_toNat 32 x).symm

theorem opLoad_writesInt {k : LoadKind} {len : Word} {rd r : Reg} {imm v : Word}
    (hg : Grants s r .ld (s.dataAddr r imm).toNat k.size)
    (ha : Aligned s (s.dataAddr r imm).toNat k.size)
    (hv : s.loadValue k (s.dataAddr r imm).toNat = v) :
    WritesInt (opLoad k len rd r imm s) s rd v len := by
  rw [opLoad_of_check (checkAccess_loadInt hg ha)]
  exact writesInt_of_eq hv

end IntegerLoads

/-- The scaled immediates of the 16-bit forms, as numbers. -/
theorem setWidth_append_two_zeros {n : Nat} (u : BitVec n) :
    (u ++ 0#2).setWidth 32 = BitVec.ofNat 32 (4 * u.toNat) := setWidth_append_zeros_eq_ofNat u

theorem setWidth_append_three_zeros {n : Nat} (u : BitVec n) :
    (u ++ 0#3).setWidth 32 = BitVec.ofNat 32 (8 * u.toNat) := setWidth_append_zeros_eq_ofNat u

/-- Settles O25: the value of each load kind in the bytes it reads. -/
theorem integerLoadResults : Obligations.IntegerLoadResults := by
  intro s rd cs1 r q imm u5 u6 a v aw asp
  have hw : immCW u5 = BitVec.ofNat 32 (4 * u5.toNat) := setWidth_append_two_zeros u5
  have hsp : immWsp u6 = BitVec.ofNat 32 (4 * u6.toNat) := setWidth_append_two_zeros u6
  refine ⟨fun hg => ⟨?_, ?_⟩, fun hg ha => ⟨?_, ?_⟩, fun hg ha => ?_, ?_, ?_⟩
  · exact opLoad_writesInt (k := .byte) hg (aligned_one s a) (signExtend_eq_ofInt_bmod _)
  · exact opLoad_writesInt (k := .byteU) hg (aligned_one s a) (setWidth_eq_ofNat _)
  · refine opLoad_writesInt (k := .half) hg ha ((signExtend_eq_ofInt_bmod _).trans ?_)
    rw [load16_toNat]
    rfl
  · refine opLoad_writesInt (k := .halfU) hg ha ((setWidth_eq_ofNat _).trans ?_)
    rw [load16_toNat]
    rfl
  · exact opLoad_writesInt (k := .word) hg ha load32_eq_ofNat
  · simp only [aw, ← hw]
    exact fun hg ha => opLoad_writesInt (k := .word) hg ha load32_eq_ofNat
  · simp only [asp, ← hsp]
    exact fun hg ha => opLoad_writesInt (k := .word) hg ha load32_eq_ofNat

/-! ## Stores (R131, R134) -/

section Stores
variable {s : State}

/-- What both stores do to memory, the mark and the rest, whatever they do to the tags. -/
theorem stores_of_writeBytes {t : State} {addr len : Word} {bytes : List Byte} {tags : Nat → Bool}
    (hmem : t.mem = writeBytes s.platform s.mem addr.toNat bytes) (htags : ∀ g, t.tags.read g = tags g)
    (hmark : t.shwmWord = markAfter s addr) (hpc : t.pc = s.pc + len) (hpcc : t.pcc = s.pcc)
    (hregs : SameRegs s t) (hscrs : SameScrs s t) (hstatus : SameStatus s t)
    (hcause : SameCause s t) (hcsrs : SameCsrs s t) (hcode : t.codeMem = s.codeMem)
    (hunfenced : t.unfenced = ⟨addr.toNat, bytes⟩ :: s.unfenced) (hdraws : t.draws = s.draws)
    (hplatform : t.platform = s.platform) : Stores (.next t) s addr bytes tags len := by
  refine ⟨t, rfl, fun k hk hram => ?_, fun k hk hdev => ?_, fun a ha => ?_, htags, hmark, hpc, hpcc,
    hregs, hscrs, hstatus, hcause, hcsrs, hcode, hunfenced, hdraws, hplatform⟩
  · rw [hmem, writeBytes_read, if_pos ⟨by omega, by omega, hram⟩, Nat.add_sub_cancel_left]
  · rw [hmem, writeBytes_read, if_neg (by simp [hdev])]
  · rw [hmem, writeBytes_read, if_neg (by omega)]

theorem memWrite_stores (addr len : Word) (bytes : List Byte) :
    Stores (.next ((s.memWrite addr bytes).advance len)) s addr bytes
      (fun g => s.tags.read g && !(touches addr.toNat bytes.length g && tagged s.platform g)) len := by
  refine stores_of_writeBytes rfl (fun g => ?_) (shwmUpdate_shwmWord _ _) rfl rfl (fun _ => rfl)
    ⟨rfl, rfl, rfl, rfl⟩ ⟨rfl, rfl⟩ ⟨rfl, rfl⟩ ⟨rfl, rfl, rfl, rfl, rfl, rfl, rfl, rfl⟩ rfl rfl rfl rfl
  rw [State.advance_tags, State.memWrite_tags, clearTags_read, Bool.and_comm (tagged s.platform g)]
  rfl

theorem memWriteCap_stores (addr len : Word) (tag : Bool) (v : Cap) :
    Stores (.next ((s.memWriteCap addr tag v).advance len)) s addr (capBytes v)
      (fun g => if g = addr.toNat ∧ tagged s.platform g = true
        then tag && !deviceGranule s.platform g else s.tags.read g) len := by
  refine stores_of_writeBytes rfl (fun g => ?_) (shwmUpdate_shwmWord _ _) rfl rfl (fun _ => rfl)
    ⟨rfl, rfl, rfl, rfl⟩ ⟨rfl, rfl⟩ ⟨rfl, rfl⟩ ⟨rfl, rfl, rfl, rfl, rfl, rfl, rfl, rfl⟩ rfl rfl rfl rfl
  rw [State.advance_tags, State.memWriteCap_tags, storeTag_read]
  by_cases hg : g = addr.toNat
  · simp only [hg]
  · simp only [hg, false_and, if_false]

/-- The low bytes of a word, the lowest first (R121). -/
def lowBytes (w : Word) (n : Nat) : List Byte :=
  (List.range n).map fun k => BitVec.ofNat 8 (w.toNat / 256 ^ k)

theorem extractByte_eq_ofNat (w : Word) (k : Nat) :
    w.extractLsb' (8 * k) 8 = BitVec.ofNat 8 (w.toNat / 256 ^ k) := by
  have hpow : 256 ^ k = 2 ^ (8 * k) := by rw [Nat.pow_mul]
  rw [BitVec.extractLsb', Nat.shiftRight_eq_div_pow, hpow]

theorem wordBytes_eq_lowBytes (w : Word) : wordBytes w = lowBytes w 4 := by
  have h := extractByte_eq_ofNat w
  exact congrArg₂ _ (h 0) (congrArg₂ _ (h 1) (congrArg₂ _ (h 2) (congrArg₂ _ (h 3) rfl)))

theorem wordBytes_take {n : Nat} (w : Word) (h : n ≤ 4) : (wordBytes w).take n = lowBytes w n := by
  rw [wordBytes_eq_lowBytes, lowBytes, ← List.map_take, List.take_range, min_eq_left h]
  rfl

theorem lowBytes_length (w : Word) (n : Nat) : (lowBytes w n).length = n := by
  rw [lowBytes, List.length_map, List.length_range]

theorem opStore_stores {n : Nat} {len : Word} {rs2 r : Reg} {imm : Word} (hn : n ≤ 4)
    (hg : Grants s r .sd (s.dataAddr r imm).toNat n)
    (ha : Aligned s (s.dataAddr r imm).toNat n) :
    Stores (opStore n len rs2 r imm s) s (s.dataAddr r imm) (lowBytes (s.x rs2) n)
      (fun g => s.tags.read g && !(touches (s.dataAddr r imm).toNat n g && tagged s.platform g))
      len := by
  have h := memWrite_stores (s := s) (s.dataAddr r imm) len (lowBytes (s.x rs2) n)
  rw [lowBytes_length] at h
  rwa [opStore_of_check (checkAccess_storeInt hg ha), wordBytes_take _ hn]

/-- A backward sentry is of otype 4 or 5 in the executable format (R54, R311). -/
theorem isBackwardSentry_eq (v : Cap) :
    v.isBackwardSentry = (v.isExec && (v.otype == 4 || v.otype == 5)) := by
  have hcases : ∀ (o : BitVec 3) (x : Bool),
      ((if o = 0 then 0 else if x then 0#1 ++ o else 1#1 ++ o) == 4#4 ||
        (if o = 0 then 0 else if x then 0#1 ++ o else 1#1 ++ o) == 5#4) =
          (x && (o == 4 || o == 5)) := by decide
  exact hcases v.otype v.isExec

theorem capBytes_eq_lowBytes (v : Cap) : capBytes v = lowBytes v.a 4 ++ lowBytes v.high 4 := by
  rw [capBytes, wordBytes_eq_lowBytes, wordBytes_eq_lowBytes]

theorem opStoreCap_stores {len : Word} {cs2 r : Reg} {imm : Word}
    (hg : Grants s r .sd (s.dataAddr r imm).toNat 8) (ha : (s.dataAddr r imm).toNat % 8 = 0)
    (hmc : (s.reg cs2).tag = true → (s.reg r).has .mc = true) :
    Stores (opStoreCap len cs2 r imm s) s (s.dataAddr r imm) (capBytes (s.reg cs2))
      (fun g => if g = (s.dataAddr r imm).toNat ∧ tagged s.platform g = true
        then storedTag (s.reg r) (s.reg cs2) && !deviceGranule s.platform g else s.tags.read g)
      len := by
  rw [opStoreCap_of_check (checkAccess_storeCap hg ha hmc)]
  exact memWriteCap_stores ..

end Stores

/-- Settles O26: `memWrite` in the shape of a store, with the bytes by number. -/
theorem integerStoreResults : Obligations.IntegerStoreResults := by
  intro s rs2 cs1 r q imm u5 u6 a aw asp low tags
  have hw : immCW u5 = BitVec.ofNat 32 (4 * u5.toNat) := setWidth_append_two_zeros u5
  have hsp : immWsp u6 = BitVec.ofNat 32 (4 * u6.toNat) := setWidth_append_two_zeros u6
  refine ⟨fun hg => opStore_stores (by decide) hg (aligned_one s _), opStore_stores (by decide),
    opStore_stores (by decide), ?_, ?_⟩
  · simp only [aw, ← hw]
    exact opStore_stores (by decide)
  · simp only [asp, ← hsp]
    exact opStore_stores (by decide)

/-- Settles O28: `memWriteCap` in the shape of a store, with bytes and backward sentries by number. -/
theorem capabilityStoreResults : Obligations.CapabilityStoreResults := by
  intro s cs2 cs1 r q imm u5 u6 bytes backward stored tags a ac asp
  have hc : immCC u5 = BitVec.ofNat 32 (8 * u5.toNat) := setWidth_append_three_zeros u5
  have hsp : immCsp u6 = BitVec.ofNat 32 (8 * u6.toNat) := setWidth_append_three_zeros u6
  have hbytes : ∀ v, bytes v = capBytes v := fun v => (capBytes_eq_lowBytes v).symm
  have hstored : ∀ auth v, stored auth v = storedTag auth v := fun auth v => by
    rw [storedTag, isBackwardSentry_eq]
  simp only [hbytes, hstored]
  refine ⟨opStoreCap_stores, ?_, ?_⟩
  · simp only [ac, ← hc]
    exact opStoreCap_stores
  · simp only [asp, ← hsp]
    exact opStoreCap_stores

/-! ## Capability loads (R310) -/

section CapabilityLoads
variable {s : State}

/-- The permissions a loaded capability may keep, as a mask (R310 step 5). -/
def keepMask (auth v : Cap) : BitVec 12 :=
  let noGl := !auth.has .lg
  let noLg := !auth.has .lg && !v.isSealed
  let noSd := !auth.has .lm && !v.isSealed
  0xFF0#12 ||| permVector false false false false false false false true (!noSd) (!noSd) (!noLg)
    (!noGl)

theorem loadedPerms_eq (auth v : Cap) : loadedPerms auth v = v.perms &&& keepMask auth v := by
  rw [loadedPerms, keepMask]
  generalize v.perms = m
  have hall : m = m &&& 0xFFF#12 := BitVec.and_allOnes.symm
  cases auth.has .lg <;> cases auth.has .lm <;> cases v.isSealed <;>
    simp only [dropPerm, BitVec.and_assoc, Bool.or_false, Bool.or_true, Bool.not_false, Bool.not_true,
      Bool.and_false, Bool.and_true, if_true, Bool.false_eq_true, if_false]
  case true.false.true | true.true.false | true.true.true => exact hall
  all_goals exact congrArg (m &&& ·) (by decide)

/-- What a load delivers, with the permissions by their mask and the revocation bit read out. -/
theorem loadedCap_eq (auth v : Cap) : s.loadedCap auth v =
    if v.tag && auth.has .mc then
      { v with
        p := encperms (v.perms &&& keepMask auth v)
        tag := match revBit s.platform (v.base / 8 * 8) with
          | none => true
          | some (ba, k) => !(s.byteAt .revocation ba).getLsbD k }
    else { v with tag := false } := by
  have hrev : (!s.revoked v.base) = match revBit s.platform (v.base / 8 * 8) with
      | none => true
      | some (ba, k) => !(s.byteAt .revocation ba).getLsbD k := by
    rw [State.revoked, granule]
    cases revBit s.platform (v.base / 8 * 8) <;> rfl
  rw [State.loadedCap, ← hrev, Cap.setPerms, loadedPerms_eq]

theorem opLoadCap_writesCap {len : Word} {cd r : Reg} {imm : Word} {v : Cap}
    (hg : Grants s r .ld (s.dataAddr r imm).toNat 8) (ha : (s.dataAddr r imm).toNat % 8 = 0)
    (hv : s.loadedCap (s.reg r) (s.loadCap (s.dataAddr r imm).toNat) = v) :
    WritesCap (opLoadCap len cd r imm s) s cd v len := by
  rw [opLoadCap_of_check (checkAccess_loadCap hg ha)]
  exact writesCap_of_eq hv

/-- With MC, LM and LG of the authority, a capability that is not revoked arrives as it is. -/
theorem loadedCap_eq_self {auth v : Cap} (hmc : auth.has .mc = true) (hlm : auth.has .lm = true)
    (hlg : auth.has .lg = true) (hrev : s.revoked v.base = false) : s.loadedCap auth v = v := by
  have hperms : loadedPerms auth v = permsOf v.p := by
    rw [loadedPerms, hlm, hlg]
    rfl
  rw [State.loadedCap, hmc, hrev, Cap.setPerms, hperms, encperms_permsOf]
  obtain ⟨tag, r, p, otype, e, t, b, a⟩ := v
  cases tag <;> rfl

end CapabilityLoads

/-- Settles O27: `loadedCap`, with its permissions as a mask. -/
theorem capabilityLoadResults : Obligations.CapabilityLoadResults := by
  intro s cd cs1 r q imm u5 u6 loaded a ac asp
  have hc : immCC u5 = BitVec.ofNat 32 (8 * u5.toNat) := setWidth_append_three_zeros u5
  have hsp : immCsp u6 = BitVec.ofNat 32 (8 * u6.toNat) := setWidth_append_three_zeros u6
  have hloaded : ∀ auth n, s.loadedCap auth (s.loadCap n) = loaded auth n := fun auth n => by
    rw [loadedCap_eq, State.loadCap, load32_eq_ofNat, load32_eq_ofNat]
    rfl
  refine ⟨fun hg ha => opLoadCap_writesCap hg ha (hloaded ..), ?_, ?_⟩
  · simp only [ac, ← hc]
    exact fun hg ha => opLoadCap_writesCap hg ha (hloaded ..)
  · simp only [asp, ← hsp]
    exact fun hg ha => opLoadCap_writesCap hg ha (hloaded ..)

/-! ## A store after a load, and a load after a store -/

section RoundTrip
variable {s t : State}

theorem isDevice_of_ram {p : Platform} {a : Nat} (h : mapped p a = some .ram) : isDevice p a = false := by
  rw [isDevice, h]
  rfl

/-- A capability stored to tagged ram reads back with the tag that was stored. -/
theorem loadCap_stored {addr : Word} {tag : Bool} {v : Cap}
    (hram : ∀ k, k < 8 → isDevice s.platform (addr.toNat + k) = false)
    (htagged : tagged s.platform addr.toNat = true) :
    (s.memWriteCap addr tag v).loadCap addr.toNat = { v with tag := tag } := by
  rw [loadCap_memWriteCap addr tag v hram, State.memWriteCap_tags, storeTag_read, if_pos ⟨rfl, htagged⟩,
    deviceGranule_eq_false.2 hram, htagged, Bool.true_and, Bool.not_false, Bool.and_true]

theorem Grants.of_same {r : Reg} {q : Perm} {addr n : Nat} (h : Grants s r q addr n)
    (hreg : t.reg r = s.reg r) (hplatform : t.platform = s.platform) : Grants t r q addr n := by
  rwa [Grants, hreg, hplatform]

end RoundTrip

/-- Settles O31: the load delivers the granule's capability as it is (`loadedCap_eq_self`), and the
store keeps its tag under SL. -/
theorem capabilityCopyIsExact : Obligations.CapabilityCopyIsExact := by
  intro s t cd cs1 cs2 imm imm' hcd hne a b hga hgb ha hb hmc hlm hlg hmc' hsl hram htagged hrev hload
  have hcheck : s.checkAccess .loadCap cs1 (immI imm) 8 = none := checkAccess_loadCap hga ha
  obtain rfl : t = (s.setReg cd (s.loadCap a)).advance 4 := by
    have h := next_inj ((opLoadCap_of_check hcheck).symm.trans hload)
    exact h.trans (congrArg (fun v => (s.setReg cd v).advance 4) (loadedCap_eq_self hmc hlm hlg hrev))
  generalize ht : (s.setReg cd (s.loadCap a)).advance 4 = t
  have hcs2 : t.reg cs2 = s.reg cs2 := by
    rw [← ht]
    exact (s.reg_setReg cd cs2 _).trans (if_neg fun h => hne h.1.symm)
  have hval : t.reg cd = s.loadCap a := by
    rw [← ht]
    exact (s.reg_setReg cd cd _).trans (if_pos ⟨rfl, hcd⟩)
  have hplatform : t.platform = s.platform := by rw [← ht]; rfl
  have haddr : (t.dataAddr cs2 (immI imm')).toNat = b := by
    rw [State.dataAddr, State.x, hcs2]
    rfl
  have hg : Grants t cs2 .sd (t.dataAddr cs2 (immI imm')).toNat 8 := by
    rw [haddr]
    exact hgb.of_same hcs2 hplatform
  have hstored : storedTag (t.reg cs2) (t.reg cd) = (s.loadCap a).tag := by
    rw [storedTag, hcs2, hval, hsl, Bool.true_or, Bool.and_true]
  refine ⟨_, opStoreCap_of_check (checkAccess_storeCap hg (by rw [haddr]; exact hb)
    fun _ => by rw [hcs2]; exact hmc'), ?_⟩
  rw [hstored, hval, ← haddr]
  refine (loadCap_stored (s := t) (fun k hk => ?_) ?_)
  · rw [haddr, hplatform]
    exact isDevice_of_ram (hram k hk)
  · rw [haddr, hplatform]
    exact htagged

/-! The narrower loads read the low part of the word. -/

section LowPart
variable {s : State} {a : Nat}

theorem load16_eq_extract : s.load16 a = (s.load32 a).extractLsb' 0 16 := by
  apply BitVec.eq_of_toNat_eq
  rw [BitVec.extractLsb'_toNat, State.load32, toNat_append_add, Nat.shiftRight_zero]
  have hlt := (s.load16 a).isLt
  omega

theorem byteAt_eq_extract : s.byteAt .data a = (s.load32 a).extractLsb' 0 8 := by
  apply BitVec.eq_of_toNat_eq
  rw [BitVec.extractLsb'_toNat, State.load32, toNat_append_add, State.load16, toNat_append_add,
    State.load16, toNat_append_add, Nat.shiftRight_zero]
  have hlt := (s.byteAt .data a).isLt
  omega

/-- Zero-extending the low `n` bits masks them. -/
theorem setWidth_extractLow (w : Word) {n : Nat} (hn : n ≤ 32) :
    (w.extractLsb' 0 n).setWidth 32 = w &&& BitVec.ofNat 32 (2 ^ n - 1) := by
  have hpow : 2 ^ n ≤ 2 ^ 32 := Nat.pow_le_pow_right (by decide) hn
  have hpos := Nat.two_pow_pos n
  have hmod : w.toNat % 2 ^ n < 2 ^ n := Nat.mod_lt _ hpos
  apply BitVec.eq_of_toNat_eq
  rw [BitVec.toNat_setWidth, BitVec.extractLsb'_toNat, Nat.shiftRight_zero, BitVec.toNat_and,
    BitVec.toNat_ofNat, Nat.mod_eq_of_lt (a := 2 ^ n - 1) (by omega), Nat.and_two_pow_sub_one_eq_mod,
    Nat.mod_eq_of_lt (by omega)]

theorem advance_load32 (s : State) (len : Word) (a : Nat) :
    (s.advance len).load32 a = s.load32 a := rfl

/-- A word stored to ram reads back. -/
theorem load32_memWrite {addr w : Word} (hram : ∀ k, k < 4 → isDevice s.platform (addr.toNat + k) = false) :
    (s.memWrite addr (wordBytes w)).load32 addr.toNat = w := by
  refine load32_of_bytes fun k hk => ?_
  have hlen : (wordBytes w).length = 4 := rfl
  rw [byteAt_of_ram (s := s.memWrite addr (wordBytes w)) (hram k hk), State.memWrite_mem,
    writeBytes_read, if_pos ⟨by omega, by omega, hram k hk⟩, Nat.add_sub_cancel_left]

/-- A load that passes its check, into a register that keeps what is written. -/
theorem exec_load_x {k : LoadKind} {rd r : Reg} {imm v : Word} (hrd : rd ≠ .c0)
    (hg : Grants s r .ld (s.dataAddr r imm).toNat k.size)
    (ha : Aligned s (s.dataAddr r imm).toNat k.size)
    (hv : s.loadValue k (s.dataAddr r imm).toNat = v) :
    ∃ u, opLoad k 4 rd r imm s = .next u ∧ u.x rd = v := by
  refine ⟨_, opLoad_of_check (checkAccess_loadInt hg ha), ?_⟩
  have hreg : ((s.setX rd v).advance 4).reg rd = nullWith v :=
    (s.reg_setX rd rd v).trans (if_pos ⟨rfl, hrd⟩)
  rw [hv, State.x, hreg]
  rfl

theorem Grants.mono {r : Reg} {q : Perm} {m n : Nat} (h : Grants s r q a n) (hmn : m ≤ n) :
    Grants s r q a m := by
  obtain ⟨htag, hsealed, hq, hbase, htop, hmap⟩ := h
  exact ⟨htag, hsealed, hq, hbase, by omega, fun k hk => hmap k (by omega)⟩

theorem Aligned.of_dvd {m n : Nat} (h : Aligned s a n) (hmn : m ∣ n) : Aligned s a m :=
  h.imp_right fun ha => Nat.mod_eq_zero_of_dvd (hmn.trans (Nat.dvd_of_mod_eq_zero ha))

end LowPart

/-- Settles O32: the word reads back (`load32_memWrite`), and the narrower loads read its low part. -/
theorem loadAfterStore : Obligations.LoadAfterStore := by
  intro s t rs2 cs1 rd imm hrd a hg hld halign hram hstore
  have ⟨htag, hsealed, _, hbase, htop, hmap⟩ := hg
  obtain rfl : t = (s.memWrite (s.dataAddr cs1 (immI imm)) (wordBytes (s.x rs2))).advance 4 :=
    next_inj ((opStore_of_check (checkAccess_storeInt hg halign)).symm.trans hstore)
  generalize ht : (s.memWrite (s.dataAddr cs1 (immI imm)) (wordBytes (s.x rs2))).advance 4 = t
  have hword : t.load32 a = s.x rs2 := by
    rw [← ht]
    exact (advance_load32 _ 4 a).trans
      (load32_memWrite (addr := s.dataAddr cs1 (immI imm)) fun k hk => isDevice_of_ram (hram k hk))
  have hgt : Grants t cs1 .ld a 4 := by
    rw [← ht]
    exact ⟨htag, hsealed, hld, hbase, htop, hmap⟩
  have hat : Aligned t a 4 := by
    rw [← ht]
    exact halign
  have haddr : (t.dataAddr cs1 (immI imm)).toNat = a := by
    rw [← ht]
    rfl
  rw [← haddr] at hgt hat hword
  refine ⟨exec_load_x (k := .word) hrd hgt hat hword,
    exec_load_x (k := .halfU) hrd (hgt.mono (by decide)) (hat.of_dvd (by decide)) ?_,
    exec_load_x (k := .byteU) hrd (hgt.mono (by decide)) (hat.of_dvd (by decide)) ?_⟩
  · rw [← hword]
    exact (congrArg _ load16_eq_extract).trans (setWidth_extractLow _ (by decide))
  · rw [← hword]
    exact (congrArg _ byteAt_eq_extract).trans (setWidth_extractLow _ (by decide))

end Sys2Proof.Machine
end

section
/-! SUPPORT. System instructions (43_system.md sections 1, 2 and 4; 60_exceptions.md section 5): the
fences, traps and returns, and the special registers. -/

namespace Sys2Proof.Machine

/-! ## Fences (R330, R331) -/

section Fence
variable {s : State}

/-- A parcel is made of the two bytes at its address. -/
theorem newParcel_congr {m n : Memory} {a : Nat} (h : ∀ b, a ≤ b → b < a + 2 → m.read b = n.read b) :
    State.newParcel { s with mem := m } a = State.newParcel { s with mem := n } a := by
  have h0 := h a le_rfl (by omega)
  have h1 := h (a + 1) (by omega) (by omega)
  simp only [State.newParcel, State.byteAt, h0, h1]

theorem touches_of_byte {st : UnfencedStore} {a b : Nat} (hb : a ≤ b) (hb' : b < a + 2)
    (h : st.addr ≤ b) (h' : b < st.addr + st.bytes.length) : st.touches a = true :=
  decide_eq_true ⟨by omega, by omega⟩

/-- Stores that do not touch a parcel leave its bytes, whichever of them are made. -/
theorem replay_read_of_untouched {seen : Nat → UnfencedStore → Bool} {m : Memory}
    {l : List UnfencedStore} {a : Nat} (hl : ∀ st, st ∈ l → st.touches a = false) (b : Nat)
    (hb : a ≤ b) (hb' : b < a + 2) : (replay s.platform seen m l).read b = m.read b := by
  refine replay_read _ _ _ l b fun st hst h h' => ?_
  exact absurd ((touches_of_byte hb hb' h h').symm.trans (hl st hst)) (by decide)

/-- A parcel that no store has touched since the last FENCE.I is the one in memory (R152). -/
theorem fetchParcel_of_untouched (hs : s.canonical) {a : Nat}
    (hl : ∀ st, st ∈ s.unfenced → st.touches a = false) : s.fetchParcel a = s.newParcel a := by
  obtain ⟨-, -, -, hreplay⟩ := hs
  refine newParcel_congr (n := s.mem) fun b hb hb' => ?_
  have hmem : s.mem.read b = s.codeMem.read b := by
    rw [← hreplay]
    exact replay_read_of_untouched hl b hb hb'
  rw [State.fetchMem, hmem]
  exact replay_read_of_untouched hl b hb hb'

/-- A parcel that only the latest store has touched is the one before it or the one after it. -/
theorem fetchParcel_of_latest {st : UnfencedStore} {older : List UnfencedStore} {a : Nat}
    (hs : s.unfenced = st :: older) (hl : ∀ o, o ∈ older → o.touches a = false) :
    s.fetchParcel a = State.newParcel { s with mem := s.codeMem } a ∨
      s.fetchParcel a = State.newParcel
        { s with mem := writeBytes s.platform s.codeMem st.addr st.bytes } a := by
  rw [State.fetchParcel, State.fetchMem, hs, replay_cons]
  split
  · refine .inr (newParcel_congr fun b hb hb' => ?_)
    rw [writeBytes_read, writeBytes_read, replay_read_of_untouched hl b hb hb']
  · exact .inl (newParcel_congr fun b hb hb' => replay_read_of_untouched hl b hb hb')

end Fence

/-- Settles O33: with no unfenced store a fetch sees memory; before it, `fetchParcel_of_untouched` and
`fetchParcel_of_latest`. -/
theorem fenceResults : Obligations.FenceResults := by
  intro s fm pred succ imm rs1 rd
  refine ⟨pc_movesOnly s _, pc_movesOnly s _, _, rfl, rfl, fun _ => rfl,
    fun hs a hl => fetchParcel_of_untouched hs hl, ?_⟩
  rintro st older m a hs hl rfl
  exact fetchParcel_of_latest hs hl

/-! ## Traps and returns -/

section Traps
variable {s : State}

theorem opBreakpoint_traps : Traps (opBreakpoint s) s (s.pccVal s.pc) 3 s.pc :=
  raise_traps_value (e := .breakpoint s.pc) (by simp) rfl

end Traps

/-- Settles O34: each raises its exception unconditionally. -/
theorem environmentCallsTrap : Obligations.EnvironmentCallsTrap := fun _ =>
  ⟨raise_traps_value (e := .envCallM) (by simp) rfl, opBreakpoint_traps, opBreakpoint_traps⟩

/-- Settles O35: the two branches of MRET. -/
theorem mretResults : Obligations.MretResults := by
  refine fun s => ⟨fun hsr => ?_, fun hsr => ?_⟩
  · exact ⟨_, exec_mret_of_sr hsr, rfl, rfl, rfl, rfl, fun _ => rfl, ⟨fun _ => rfl, fun _ => rfl⟩,
      ⟨rfl, rfl, rfl, rfl⟩, ⟨rfl, rfl⟩, rfl, ⟨rfl, rfl, rfl, rfl, rfl, rfl, rfl, rfl⟩, rfl, rfl, rfl, rfl⟩
  · have hexec : exec .mret s = raise (.cheri .sr .pcc) s := if_neg (by simp [hsr])
    rw [hexec]
    exact raise_pcc_trapsCheri (by decide) s

/-- Settles O36: MEPCC is PCC at `pc`, whose bounds are those of PCC because `pc` is representable. -/
theorem trapThenMretResumes : Obligations.TrapThenMretResumes := by
  intro s h e he hrep hmepcc hmpie hsr
  have hepcc : h.mepcc = s.pccVal s.pc := hmepcc.trans (exceptionPcc_eq he)
  obtain ⟨hbase, htop⟩ := Cap.representable_iff.1 hrep
  refine ⟨_, exec_mret_of_sr hsr, ?_⟩
  have hpcc : h.trapReturn.pcc = s.pccVal s.pc := hepcc
  have hpc : h.trapReturn.pc = s.pc := congrArg Cap.a hepcc
  rw [hpcc, hpc]
  refine ⟨rfl, hmpie, ?_, hbase, htop, rfl, rfl⟩
  rw [State.pccVal, hrep, Bool.and_true]

/-! ## Special registers (R348) -/

/-- Settles O42: the reads, the plain writes, and the violation. -/
theorem specialRegisterResults : Obligations.SpecialRegisterResults := by
  refine fun s cd cs1 n => ⟨fun hsr => ?_, fun hsr hc => ⟨?_, ?_⟩, fun hsr => ?_⟩
  · have hexec : exec (.cspecialrw cd n .c0) s = finishC 4 cd (s.scr n) s := if_pos hsr
    rw [hexec]
    exact finishC_writesCap ..
  · exact exec_cspecialrw_write cd .mtdc hsr hc
  · exact exec_cspecialrw_write cd .mscratchc hsr hc
  · have hexec : exec (.cspecialrw cd n cs1) s = raise (.cheri .sr (.scr n)) s :=
      if_neg (by simp [hsr])
    rw [hexec]
    exact raise_scr_trapsCheri s

/-- Settles O43: the effects that change a system register need SR or are a trap. -/
theorem noSystemChangeWithoutSr : Obligations.NoSystemChangeWithoutSr := by
  intro s t i h hsr hnotrap
  have hno : ¬s.hasSr = true := by simp [hsr]
  cases exec_effect h with
  | trapped e => exact absurd ⟨e, rfl⟩ hnotrap
  | returned hr | csrWritten _ _ _ hr | scrRead _ _ hr | scrWritten _ _ _ hr => exact absurd hr hno
  | wrote | advanced | branched | linked | jumped | stored | storedCap | fetchSynced | csrRead =>
    exact ⟨⟨rfl, rfl, rfl, rfl⟩, ⟨rfl, rfl⟩, ⟨rfl, rfl, rfl, rfl, rfl, rfl, rfl, rfl⟩, rfl⟩

end Sys2Proof.Machine
end

section
/-! SUPPORT. The control and status registers (10_state.md section 5, 43_system.md section 3). -/

namespace Sys2Proof.Machine

/-! ## Addresses (R90, R91) -/

section CsrAddresses
variable {p : Platform} {addr : BitVec 12} {c : Csr}

theorem csrReadOnly_eq (addr : BitVec 12) : csrReadOnly addr = readOnlyAddr addr := by
  have hlt := addr.isLt
  have hfield : (addr.extractLsb' 10 2).toNat = addr.toNat / 1024 % 4 := by
    rw [BitVec.extractLsb'_toNat, Nat.shiftRight_eq_div_pow]
  rw [csrReadOnly, readOnlyAddr, Bool.eq_iff_iff, beq_iff_eq, decide_eq_true_iff, ← BitVec.toNat_inj,
    hfield]
  change addr.toNat / 1024 % 4 = 3 ↔ _
  omega

theorem hpmCsr_of_lt {n : Nat} {half : Bool} (h : n < p.numHpm.val) :
    ∃ k, hpmCsr p n half = some (.hpmcounter k half) := by
  have h29 : n < 29 := by omega
  exact ⟨⟨n, h29⟩, by rw [hpmCsr, dif_pos h29, if_pos h]⟩

theorem hpmCsr_eq_some {n : Nat} {half : Bool} (h : hpmCsr p n half = some c) :
    ∃ k, c = .hpmcounter k half := by
  unfold hpmCsr at h
  split_ifs at h
  exact ⟨_, (Option.some.inj h).symm⟩

/-- Where the allowlist and the two mark registers lie. -/
def CsrPlaced (addr : BitVec 12) (c : Csr) : Prop :=
  (c.onAllowlist = true ↔ 0xC00 ≤ addr.toNat ∧ addr.toNat < 0xF00) ∧
    (c.isShwm = true ↔ addr = 0xBC1 ∨ addr = 0xBC2)

theorem csrPlaced_hpmcounter {k : Fin 29} {half : Bool} (h : 0xC00 ≤ addr.toNat)
    (h' : addr.toNat < 0xF00) : CsrPlaced addr (.hpmcounter k half) := by
  refine ⟨⟨fun _ => ⟨h, h'⟩, fun _ => rfl⟩, nofun, ?_⟩
  rintro (rfl | rfl) <;> exact absurd h (by decide)

/-- One address of the table `csrAt`, and those after it. -/
theorem csrPlaced_or {a : BitVec 12} {k : Csr} {rest : Option Csr} (hk : CsrPlaced a k)
    (hrest : rest = some c → CsrPlaced addr c) :
    (if addr = a then some k else rest) = some c → CsrPlaced addr c := by
  intro h
  split_ifs at h with ha
  · obtain rfl := Option.some.inj h
    rwa [ha]
  · exact hrest h

/-- One range of the table `csrAt`, and what is after it. -/
theorem csrPlaced_range {lo hi : Nat} {n : Nat} {half : Bool} {rest : Option Csr} (hlo : 0xC00 ≤ lo)
    (hhi : hi < 0xF00) (hrest : rest = some c → CsrPlaced addr c) :
    (if lo ≤ addr.toNat ∧ addr.toNat ≤ hi then hpmCsr p n half else rest) = some c →
      CsrPlaced addr c := by
  intro h
  split_ifs at h with hrange
  · obtain ⟨k, rfl⟩ := hpmCsr_eq_some h
    exact csrPlaced_hpmcounter (by omega) (by omega)
  · exact hrest h

theorem csrPlaced_of_csrAt : csrAt p addr = some c → CsrPlaced addr c := by
  unfold csrAt
  iterate 19 refine csrPlaced_or (by unfold CsrPlaced; decide) ?_
  refine csrPlaced_range (by decide) (by decide) (csrPlaced_range (by decide) (by decide) ?_)
  iterate 4 refine csrPlaced_or (by unfold CsrPlaced; decide) ?_
  exact nofun

/-- The low halves of the event counters lie in their range, clear of the other addresses (R91). -/
theorem csrAt_hpm_low {n : Nat} (h : n < 29) :
    csrAt p (0xC03#12 + BitVec.ofNat 12 n) = hpmCsr p n false := by
  have hval : (0xC03#12 + BitVec.ofNat 12 n).toNat = 0xC03 + n := by
    rw [BitVec.toNat_add, BitVec.toNat_ofNat, BitVec.toNat_ofNat]
    omega
  have hne : ∀ b : BitVec 12, b.toNat < 0xC03 ∨ 0xC1F < b.toNat →
      ¬0xC03#12 + BitVec.ofNat 12 n = b := fun b hb he => by
    rw [he] at hval
    omega
  simp (disch := decide) only [csrAt, hne, if_false]
  rw [hval, if_pos ⟨by omega, by omega⟩, Nat.add_sub_cancel_left]

/-- As `csrAt_hpm_low`, for the high halves. -/
theorem csrAt_hpm_high {n : Nat} (h : n < 29) :
    csrAt p (0xC83#12 + BitVec.ofNat 12 n) = hpmCsr p n true := by
  have hval : (0xC83#12 + BitVec.ofNat 12 n).toNat = 0xC83 + n := by
    rw [BitVec.toNat_add, BitVec.toNat_ofNat, BitVec.toNat_ofNat]
    omega
  have hne : ∀ b : BitVec 12, b.toNat < 0xC83 ∨ 0xC9F < b.toNat →
      ¬0xC83#12 + BitVec.ofNat 12 n = b := fun b hb he => by
    rw [he] at hval
    omega
  simp (disch := decide) only [csrAt, hne, if_false]
  rw [hval, if_neg (by omega), if_pos ⟨by omega, by omega⟩, Nat.add_sub_cancel_left]

end CsrAddresses

/-! ## The check and the access (R340) -/

section CsrAccess
variable {s : State} {i : Instr} {f : CsrForm} {c : Csr}

/-- The exceptions of a CSR access, in the order of R340. -/
theorem checkCsr_eq {addr : BitVec 12} {writes : Bool} : s.checkCsr i addr writes =
    if csrAt s.platform addr = none ∨ addr = 0x305 ∨ addr = 0x341 ∨
        writes = true ∧ readOnlyAddr addr = true then some (.illegal (encode i).bits)
    else if s.hasSr = false ∧ ¬(writes = false ∧ 0xC00 ≤ addr.toNat ∧ addr.toNat < 0xF00) then
      if (addr = 0xBC1 ∨ addr = 0xBC2) ∧ s.platform.shwmNoAsrCause = .illegal then
        some (.illegal (encode i).bits)
      else some (.cheri .sr .pcc)
    else none := by
  cases hc : csrAt s.platform addr with
  | none => rw [State.checkCsr, hc, if_pos (.inl rfl)]
  | some c =>
    obtain ⟨hallow, hshwm⟩ := csrPlaced_of_csrAt hc
    have h305 : addr ≠ 0x305 := by rintro rfl; cases hc
    have h341 : addr ≠ 0x341 := by rintro rfl; cases hc
    rw [State.checkCsr, hc, csrReadOnly_eq]
    simp only [← hallow, ← hshwm, h305, h341, reduceCtorEq, false_or, Bool.and_eq_true, beq_iff_eq]
    by_cases hro : writes = true ∧ readOnlyAddr addr = true
    · rw [if_pos hro, if_pos hro]
    · rw [if_neg hro, if_neg hro]
      cases s.hasSr <;> cases writes <;> cases c.onAllowlist <;> simp

theorem checkCsr_eq_none {addr : BitVec 12} {writes : Bool} (hc : csrAt s.platform addr = some c)
    (hro : writes = true → readOnlyAddr addr = false)
    (hsr : s.hasSr = true ∨ writes = false ∧ 0xC00 ≤ addr.toNat ∧ addr.toNat < 0xF00) :
    s.checkCsr i addr writes = none := by
  have h305 : addr ≠ 0x305 := by rintro rfl; cases hc
  have h341 : addr ≠ 0x341 := by rintro rfl; cases hc
  rw [checkCsr_eq, if_neg, if_neg]
  · rintro ⟨hno, hread⟩
    rcases hsr with hyes | hok
    · exact absurd (hyes.symm.trans hno) (by decide)
    · exact hread hok
  · rintro (h | h | h | ⟨hw, h⟩)
    · exact absurd (hc.symm.trans h) nofun
    · exact h305 h
    · exact h341 h
    · exact absurd ((hro hw).symm.trans h) (by decide)

theorem opCsr_of_check {addr : BitVec 12} {rd : Reg} {writes : Bool} {g : Word → Word}
    (h : s.checkCsr i addr writes = none) :
    opCsr i addr rd writes g s = .next (s.accessCsr addr rd writes g) := by
  rw [opCsr, h]

theorem opCsr_of_exception {addr : BitVec 12} {rd : Reg} {writes : Bool} {g : Word → Word} {e : Exc}
    (h : s.checkCsr i addr writes = some e) : opCsr i addr rd writes g s = raise e s := by
  rw [opCsr, h]

/-- The state of a CSR access before its register is written (R340 step 5). -/
def State.csrWritten (s : State) (f : CsrForm) (c : Csr) : State :=
  if f.writes then s.writeCsr c (f.op.apply (s.readCsr c) f.operand) else s

/-- A CSR write touches neither registers, memory nor the SCRs. -/
structure SameButCsrs (s t : State) : Prop where
  regs : SameRegs s t
  pcc : t.pcc = s.pcc
  pc : t.pc = s.pc
  memory : SameMemory s t
  scrs : SameScrs s t
  rest : SameRest s t

theorem csrWritten_sameButCsrs (s : State) (f : CsrForm) (c : Csr) :
    SameButCsrs s (s.csrWritten f c) := by
  rw [State.csrWritten]
  cases f.writes with
  | false =>
    exact ⟨fun _ => rfl, rfl, rfl, ⟨fun _ => rfl, fun _ => rfl⟩, ⟨rfl, rfl, rfl, rfl⟩,
      ⟨rfl, rfl, rfl, rfl⟩⟩
  | true =>
    rw [if_pos rfl]
    generalize f.op.apply (s.readCsr c) f.operand = v
    exact ⟨s.writeCsr_reg c v, s.writeCsr_pcc c v, s.writeCsr_pc c v,
      ⟨fun a => by rw [State.writeCsr_mem], fun g => by rw [State.writeCsr_tags]⟩,
      ⟨s.writeCsr_mtcc c v, s.writeCsr_mtdc c v, s.writeCsr_mscratchc c v, s.writeCsr_mepcc c v⟩,
      ⟨s.writeCsr_codeMem c v, s.writeCsr_unfenced c v, s.writeCsr_draws c v,
        s.writeCsr_platform c v⟩⟩

theorem exec_csr (hf : s.csrForm i = some f) (hc : csrAt s.platform f.addr = some c)
    (hro : f.writes = true → readOnlyAddr f.addr = false)
    (hsr : s.hasSr = true ∨ f.writes = false ∧ 0xC00 ≤ f.addr.toNat ∧ f.addr.toNat < 0xF00) :
    exec i s = .next (((s.csrWritten f c).setX f.rd (s.readCsr c)).advance 4) := by
  rw [exec_of_csrForm hf, opCsr_of_check (checkCsr_eq_none hc hro hsr), accessCsr_eq hc]
  rfl

theorem reg_after_setX (s : State) (d : Reg) (v len : Word) :
    ((s.setX d v).advance len).reg d = if d = .c0 then Cap.null else nullWith v := by
  cases d <;> rfl

theorem setReg_after_setX (s : State) (d : Reg) (v len : Word) (w : Cap) :
    ((s.setX d v).advance len).setReg d w = (s.setReg d w).advance len := by
  cases d <;> rfl

end CsrAccess

/-- Settles O40: the branches of the check (`checkCsr_eq`). -/
theorem csrTrapsInOrder : Obligations.CsrTrapsInOrder := by
  intro s i f hf
  have hcheck := checkCsr_eq (s := s) (i := i) (addr := f.addr) (writes := f.writes)
  have hexec := exec_of_csrForm hf
  split_ifs at hcheck ⊢
  · rw [hexec, opCsr_of_exception hcheck]
    exact raise_illegal_traps _ s
  · rw [hexec, opCsr_of_exception hcheck]
    exact raise_illegal_traps _ s
  · rw [hexec, opCsr_of_exception hcheck]
    exact raise_pcc_trapsCheri (by decide) s
  · obtain ⟨c, hc, -⟩ := checkCsr_none hcheck
    rw [hexec, opCsr_of_check hcheck, accessCsr_eq hc]
    refine ⟨_, rfl, ?_⟩
    cases f.writes
    · exact ⟨rfl, rfl⟩
    · exact ⟨congrArg (· + 4) (s.writeCsr_pc c _), s.writeCsr_pcc c _⟩

/-- Settles O37: `exec_csr`; a CSR write touches neither registers nor memory. -/
theorem csrInstructionsComplete : Obligations.CsrInstructionsComplete := by
  intro s i f c hf hc hro hsr
  have hsame := csrWritten_sameButCsrs s f c
  refine ⟨_, exec_csr hf hc hro hsr, congrArg (· + 4) hsame.pc, hsame.pcc, ?_, fun r hr => ?_,
    hsame.memory, hsame.scrs, hsame.rest, fun hw => ?_, fun hw => ?_⟩
  · rw [← nullWith_eq_mkcap]
    exact reg_after_setX ..
  · exact ((State.reg_setX ..).trans (if_neg fun h => hr h.1)).trans (hsame.regs r)
  · have hkept : s.csrWritten f c = s := by rw [State.csrWritten, hw]; rfl
    rw [hkept]
    exact ⟨⟨rfl, rfl, rfl, rfl⟩, ⟨rfl, rfl⟩, ⟨rfl, rfl⟩, rfl,
      ⟨rfl, rfl, rfl, rfl, rfl, rfl, rfl, rfl⟩, rfl, rfl, rfl, rfl⟩
  · have hwritten : s.csrWritten f c = s.writeCsr c (f.op.apply (s.readCsr c) f.operand) := by
      rw [State.csrWritten, if_pos hw]
    rw [hwritten]
    exact setReg_after_setX ..

/-! ## What the registers read as (R92 to R102) -/

section CsrReads
variable {s : State} {rd : Reg} {addr : BitVec 12} {c : Csr}

/-- A read under SR delivers the value of the register. -/
theorem csrrs_reads {v : Word} (hsr : s.hasSr = true) (hc : csrAt s.platform addr = some c)
    (hv : s.readCsr c = v) : WritesInt (exec (.csrrs rd addr .c0) s) s rd v 4 := by
  rw [exec_csr (f := ⟨rd, addr, false, .set, s.x .c0⟩) rfl hc nofun (.inl hsr)]
  exact writesInt_of_eq hv

theorem mstatusWord_eq (mie mpie : Bool) :
    mstatusWord mie mpie = BitVec.ofNat 32 (0x1800 + 8 * mie.toNat + 128 * mpie.toNat) := by
  cases mie <;> cases mpie <;> rfl

theorem misaWord_eq (p : Platform) :
    misaWord p = BitVec.ofNat 32 (0x40800014 + 4096 * p.hasM.toNat) := by
  rw [misaWord]
  cases p.hasM <;> rfl

theorem append_nibble_eq_ofNat (m : BitVec 28) : m ++ 0#4 = BitVec.ofNat 32 (16 * m.toNat) := by
  apply BitVec.eq_of_toNat_eq
  have hlt := m.isLt
  rw [toNat_append_zeros, BitVec.toNat_ofNat]
  omega

/-- `mcause` reads back a cause of this machine (R95). -/
theorem mcauseValue_eq (h : s.mcause = 0x1C ∨ s.mcause = 11 ∨
    (1 ≤ s.mcause.toNat ∧ s.mcause.toNat ≤ 7) ∨
    ∃ k, k ∈ irqOrder s.platform ∧ s.mcause = 0x80000000#32 ||| BitVec.ofNat 32 k) :
    s.mcauseValue = s.mcause := by
  have hsupported : supportedCause s.platform s.mcause = true := by
    rw [supportedCause, Bool.or_eq_true]
    rcases h with h | h | ⟨hlo, hhi⟩ | ⟨k, hk, h⟩
    · exact .inl (by rw [h]; decide)
    · exact .inl (by rw [h]; decide)
    · left
      generalize s.mcause = v at hlo hhi ⊢
      have hv : v = BitVec.ofNat 32 v.toNat := (BitVec.ofNat_toNat 32 v).symm
      rw [hv]
      generalize v.toNat = n at hlo hhi ⊢
      interval_cases n <;> decide
    · exact .inr (List.any_eq_true.2 ⟨k, hk, beq_iff_eq.2 h⟩)
  rw [State.mcauseValue, if_pos hsupported]

end CsrReads

/-- Settles O38: `csrrs_reads` at each address; a counter reads as some word. -/
theorem csrReadValues : Obligations.CsrReadValues := by
  intro s rd hsr reads mask
  have hread {addr : BitVec 12} {c : Csr} {v : Word} (hc : csrAt s.platform addr = some c)
      (hv : s.readCsr c = v) : reads addr v := csrrs_reads hsr hc hv
  refine ⟨hread rfl (mstatusWord_eq ..), hread rfl (misaWord_eq _), hread rfl rfl, hread rfl rfl,
    hread rfl rfl, hread rfl rfl, fun h => hread rfl (mcauseValue_eq h),
    hread rfl (append_nibble_eq_ofNat _), hread rfl (append_nibble_eq_ofNat _), hread rfl rfl,
    hread rfl rfl, hread rfl rfl, hread rfl rfl, fun addr haddr => ?_⟩
  have hsome : ∃ c, csrAt s.platform addr = some c := by
    rcases haddr with haddr | ⟨n, hn, rfl | rfl⟩
    · simp only [List.mem_cons, List.not_mem_nil, or_false] at haddr
      rcases haddr with rfl | rfl | rfl | rfl | rfl | rfl | rfl | rfl | rfl | rfl <;> exact ⟨_, rfl⟩
    · obtain ⟨k, hk⟩ := hpmCsr_of_lt (half := false) hn
      exact ⟨_, (csrAt_hpm_low (by omega)).trans hk⟩
    · obtain ⟨k, hk⟩ := hpmCsr_of_lt (half := true) hn
      exact ⟨_, (csrAt_hpm_high (by omega)).trans hk⟩
  obtain ⟨c, hc⟩ := hsome
  exact ⟨_, hread hc rfl⟩

/-! ## What the writes leave (R340 step 5) -/

section CsrWrites
variable {s : State} {rd rs1 : Reg} {addr : BitVec 12} {c : Csr}

/-- A write under SR leaves the written state, with the old value in `rd`. -/
theorem csrrw_leaves {t : State} (hsr : s.hasSr = true) (hc : csrAt s.platform addr = some c)
    (hro : readOnlyAddr addr = false) (ht : s.writeCsr c (s.x rs1) = t) :
    ∃ old, exec (.csrrw rd addr rs1) s =
      .next { t with pc := s.pc + 4, regs := (s.setReg rd (mkcap false 0 old)).regs } := by
  refine ⟨s.readCsr c, ?_⟩
  rw [exec_csr (f := ⟨rd, addr, true, .write, s.x rs1⟩) rfl hc (fun _ => hro) (.inl hsr),
    ← nullWith_eq_mkcap]
  subst ht
  cases c <;> rfl

/-- The bits of the listed numbers, at 16 and above, leave the low half of a word clear. -/
theorem wordOfBits_low {l : List Nat} (hl : ∀ k, k ∈ l → 16 ≤ k) {i : Nat} (hi : i < 16) :
    (wordOfBits l).getLsbD i = false := by
  have hfold : ∀ w : Word, w.getLsbD i = false →
      (l.foldl (fun w k => w ||| (1#32 <<< k)) w).getLsbD i = false := by
    induction l with
    | nil => exact fun w hw => hw
    | cons k l ih =>
      intro w hw
      have hk := hl k (by simp)
      refine ih (fun j hj => hl j (by simp [hj])) _ ?_
      rw [BitVec.getLsbD_or, hw, BitVec.getLsbD_shiftLeft]
      simp [show i < k by omega]
  exact hfold 0 (BitVec.getLsbD_zero ..)

/-- The local interrupts are the bits of the mask in the upper half (R94). -/
theorem localMask_eq (p : Platform) :
    (0x888#32 ||| wordOfBits (localBits p)) &&& 0xFFFF0000#32 = wordOfBits (localBits p) := by
  have hlow : ∀ i, i < 16 → (wordOfBits (localBits p)).getLsbD i = false := fun i hi =>
    wordOfBits_low (fun k hk => by
      obtain ⟨n, -, rfl⟩ := List.mem_map.1 hk
      omega) hi
  have hmask : ∀ i, i < 32 → (0xFFFF0000#32).getLsbD i = decide (16 ≤ i) := by decide
  have hfixed : ∀ i, i < 32 → 16 ≤ i → (0x888#32).getLsbD i = false := by decide
  refine BitVec.eq_of_getLsbD_eq fun i hi => ?_
  rw [BitVec.getLsbD_and, BitVec.getLsbD_or, hmask i hi]
  by_cases h16 : 16 ≤ i
  · rw [hfixed i hi h16, Bool.false_or, decide_eq_true h16, Bool.and_true]
  · rw [decide_eq_false h16, Bool.and_false, hlow i (by omega)]

theorem mipWriteMask_eq (p : Platform) : mipWriteMask p =
    p.mipWritable &&& (0x888#32 ||| wordOfBits (localBits p)) &&& 0xFFFF0000 := by
  rw [BitVec.and_assoc]
  exact congrArg (p.mipWritable &&& ·) (localMask_eq p).symm

theorem extractHigh_eq_ofNat (v : Word) :
    v.extractLsb' 4 28 = BitVec.ofNat 28 (v.toNat / 16) := by
  rw [BitVec.extractLsb', Nat.shiftRight_eq_div_pow]

end CsrWrites

/-- Settles O39: `csrrw_leaves` at each address, with the legalisations in the statement's form. -/
theorem csrWriteEffects : Obligations.CsrWriteEffects := by
  intro s rd rs1 hsr v mask writable leaves
  have hleaves {addr : BitVec 12} {c : Csr} {t : State} (hc : csrAt s.platform addr = some c)
      (hro : readOnlyAddr addr = false) (ht : s.writeCsr c v = t) : leaves addr t :=
    csrrw_leaves hsr hc hro ht
  refine ⟨hleaves rfl rfl rfl, hleaves rfl rfl rfl, hleaves rfl rfl rfl, hleaves rfl rfl ?_,
    hleaves rfl rfl rfl, hleaves rfl rfl rfl, hleaves rfl rfl rfl, hleaves rfl rfl ?_,
    hleaves rfl rfl ?_, hleaves rfl rfl rfl, hleaves rfl rfl rfl, hleaves rfl rfl rfl,
    hleaves rfl rfl rfl⟩
  · have hmask : mipWriteMask s.platform = writable := mipWriteMask_eq s.platform
    rw [← hmask]
    rfl
  · rw [← extractHigh_eq_ofNat]
    rfl
  · rw [← extractHigh_eq_ofNat]
    rfl

end Sys2Proof.Machine
end
